-- ==== Sys2Proof/Word.lean ====
section
/-! DEFINITION. The word types of the core (00_scope.md R8, R9; 10_state.md R20): bytes, 16-bit words and the
4-bit register numbers. Everything is unsigned, and nothing is sign-extended (00_scope.md R9). -/

namespace Sys2Proof

/-- A byte: a V register, a timer, a memory cell (10_state.md R20). -/
abbrev Byte := BitVec 8

/-- A 16-bit word: PC, I, a stack entry, an instruction word (10_state.md R20, 30_encoding.md R70). -/
abbrev Word := BitVec 16

/-- A register number 0x0 to 0xF, a 4-bit field of the instruction (10_state.md R21). -/
abbrev RegIdx := BitVec 4

/-- `MEM_SIZE` (00_scope.md R5). -/
abbrev memSize : Nat := 4096

/-- `PROGRAM_BASE` (00_scope.md R5). -/
abbrev programBase : Nat := 0x200

end Sys2Proof
end

