-- ==== Sys2Proof/Syntax.lean ====
section
/-! DEFINITION. The instructions: one constructor for each of the 35 dispatch entries (30_encoding.md R83, R87), that
is for each row of opcode_table.json. The operands are the fields the row's format gives it (30_encoding.md R72), also
those the instruction does not use (nnn of SYS, y of SHR and SHL), so that an instruction determines its word. -/

namespace Sys2Proof

inductive Instr where
  /-- 0nnn, SYS nnn (40_control_flow.md R100). -/
  | sys (nnn : BitVec 12)
  /-- 00E0, CLS (43_display.md R170). -/
  | cls
  /-- 00EE, RET (40_control_flow.md R101). -/
  | ret
  /-- 1nnn, JP nnn (40_control_flow.md R102). -/
  | jp (nnn : BitVec 12)
  /-- 2nnn, CALL nnn (40_control_flow.md R103). -/
  | call (nnn : BitVec 12)
  /-- 3xkk, SE Vx, kk (40_control_flow.md R104). -/
  | seKk (x : RegIdx) (kk : Byte)
  /-- 4xkk, SNE Vx, kk (40_control_flow.md R105). -/
  | sneKk (x : RegIdx) (kk : Byte)
  /-- 5xy0, SE Vx, Vy (40_control_flow.md R106). -/
  | seXy (x y : RegIdx)
  /-- 6xkk, LD Vx, kk (41_alu.md R122). -/
  | ldKk (x : RegIdx) (kk : Byte)
  /-- 7xkk, ADD Vx, kk (41_alu.md R123). -/
  | addKk (x : RegIdx) (kk : Byte)
  /-- 8xy0, LD Vx, Vy (41_alu.md R124). -/
  | ldXy (x y : RegIdx)
  /-- 8xy1, OR Vx, Vy (41_alu.md R125). -/
  | or (x y : RegIdx)
  /-- 8xy2, AND Vx, Vy (41_alu.md R126). -/
  | and (x y : RegIdx)
  /-- 8xy3, XOR Vx, Vy (41_alu.md R127). -/
  | xor (x y : RegIdx)
  /-- 8xy4, ADD Vx, Vy (41_alu.md R128). -/
  | addXy (x y : RegIdx)
  /-- 8xy5, SUB Vx, Vy (41_alu.md R129). -/
  | sub (x y : RegIdx)
  /-- 8xy6, SHR Vx, the y field encoded but not read (41_alu.md R130). -/
  | shr (x y : RegIdx)
  /-- 8xy7, SUBN Vx, Vy (41_alu.md R131). -/
  | subn (x y : RegIdx)
  /-- 8xyE, SHL Vx, the y field encoded but not read (41_alu.md R132). -/
  | shl (x y : RegIdx)
  /-- 9xy0, SNE Vx, Vy (40_control_flow.md R107). -/
  | sneXy (x y : RegIdx)
  /-- Annn, LD I, nnn (42_index_memory.md R150). -/
  | ldI (nnn : BitVec 12)
  /-- Bnnn, JP V0, nnn (40_control_flow.md R108). -/
  | jpV0 (nnn : BitVec 12)
  /-- Cxkk, RND Vx, kk (41_alu.md R133). -/
  | rnd (x : RegIdx) (kk : Byte)
  /-- Dxyn, DRW Vx, Vy, n (43_display.md R171). -/
  | drw (x y : RegIdx) (n : BitVec 4)
  /-- Ex9E, SKP Vx (44_keypad_timers.md R190). -/
  | skp (x : RegIdx)
  /-- ExA1, SKNP Vx (44_keypad_timers.md R191). -/
  | sknp (x : RegIdx)
  /-- Fx07, LD Vx, DT (44_keypad_timers.md R192). -/
  | ldXDt (x : RegIdx)
  /-- Fx0A, LD Vx, K (44_keypad_timers.md R193). -/
  | ldXK (x : RegIdx)
  /-- Fx15, LD DT, Vx (44_keypad_timers.md R194). -/
  | ldDtX (x : RegIdx)
  /-- Fx18, LD ST, Vx (44_keypad_timers.md R195). -/
  | ldStX (x : RegIdx)
  /-- Fx1E, ADD I, Vx (42_index_memory.md R151). -/
  | addIX (x : RegIdx)
  /-- Fx29, LD F, Vx (42_index_memory.md R152). -/
  | ldFX (x : RegIdx)
  /-- Fx33, LD B, Vx (42_index_memory.md R153). -/
  | ldBX (x : RegIdx)
  /-- Fx55, LD [I], Vx (42_index_memory.md R154). -/
  | ldMemX (x : RegIdx)
  /-- Fx65, LD Vx, [I] (42_index_memory.md R155). -/
  | ldXMem (x : RegIdx)
  deriving DecidableEq, Repr

end Sys2Proof
end

