-- ==== Sys2Proof/WellFormed.lean ====
section
/-! DEFINITION. Which terms of `Instr` are instructions. Every operand field may take every value of its width
(30_encoding.md R71, R85), with one exception: the SYS row leaves out the words 0x00E0 and 0x00EE, which belong to CLS
and RET (40_control_flow.md R100). -/

namespace Sys2Proof

/-- SYS excludes nnn = 0x0E0, the word of CLS (40_control_flow.md R100). -/
def Instr.notClsWord : Instr → Bool
  | .sys nnn => nnn != 0x0E0
  | _ => true

/-- SYS excludes nnn = 0x0EE, the word of RET (40_control_flow.md R100). -/
def Instr.notRetWord : Instr → Bool
  | .sys nnn => nnn != 0x0EE
  | _ => true

/-- A well-formed instruction: a term that stands for a word of its own row of the opcode table. -/
def Instr.wf (i : Instr) : Bool := i.notClsWord && i.notRetWord

end Sys2Proof
end

