-- ==== Sys2Proof/Decode.lean ====
section
/-! DEFINITION. The instruction decoder and dispatch table (30_encoding.md R70 to R73, R83 to R87), total on every word
and on every byte string, and after it the encoder, written from the format table (30_encoding.md R72). -/

namespace Sys2Proof

/-! ## The six fields (30_encoding.md R71) -/

/-- kind = op[15:12], the family nibble. -/
def fieldKind (op : Word) : BitVec 4 := op.extractLsb' 12 4
/-- x = op[11:8], a register index. -/
def fieldX (op : Word) : RegIdx := op.extractLsb' 8 4
/-- y = op[7:4], a register index. -/
def fieldY (op : Word) : RegIdx := op.extractLsb' 4 4
/-- n = op[3:0]. -/
def fieldN (op : Word) : BitVec 4 := op.extractLsb' 0 4
/-- kk = op[7:0]. -/
def fieldKk (op : Word) : Byte := op.extractLsb' 0 8
/-- nnn = op[11:0]. -/
def fieldNnn (op : Word) : BitVec 12 := op.extractLsb' 0 12

/-! ## Dispatch (30_encoding.md R83) -/

/-- Why a byte string is no instruction. The five families are the illegal spaces of 30_encoding.md R86; each of them
raises UnknownOpcode in a step (30_encoding.md R84). -/
inductive Reject where
  /-- Fewer than two bytes: an instruction is always 2 bytes long (30_encoding.md R70). -/
  | truncated
  /-- 5xyN with N other than 0. -/
  | family5
  /-- 8xyN with N in 8, 9, A, B, C, D, F. -/
  | family8
  /-- 9xyN with N other than 0. -/
  | family9
  /-- Exkk with kk other than 9E and A1. -/
  | familyE
  /-- Fxkk with kk other than the nine sub-selectors. -/
  | familyF
  deriving DecidableEq, Repr

/-- Family 0x0: matched on the whole word; everything but 00E0 and 00EE is the SYS row. -/
def dispatch0 (op : Word) : Instr :=
  if op = 0x00E0 then .cls else if op = 0x00EE then .ret else .sys (fieldNnn op)

/-- Family 0x8: the sub-selector is the low nibble. -/
def dispatch8 (x y n : BitVec 4) : Except Reject Instr :=
  if n = 0x0 then .ok (.ldXy x y)
  else if n = 0x1 then .ok (.or x y)
  else if n = 0x2 then .ok (.and x y)
  else if n = 0x3 then .ok (.xor x y)
  else if n = 0x4 then .ok (.addXy x y)
  else if n = 0x5 then .ok (.sub x y)
  else if n = 0x6 then .ok (.shr x y)
  else if n = 0x7 then .ok (.subn x y)
  else if n = 0xE then .ok (.shl x y)
  else .error .family8

/-- Family 0xE: the sub-selector is the low byte. -/
def dispatchE (x : RegIdx) (kk : Byte) : Except Reject Instr :=
  if kk = 0x9E then .ok (.skp x) else if kk = 0xA1 then .ok (.sknp x) else .error .familyE

/-- Family 0xF: the sub-selector is the low byte. -/
def dispatchF (x : RegIdx) (kk : Byte) : Except Reject Instr :=
  if kk = 0x07 then .ok (.ldXDt x)
  else if kk = 0x0A then .ok (.ldXK x)
  else if kk = 0x15 then .ok (.ldDtX x)
  else if kk = 0x18 then .ok (.ldStX x)
  else if kk = 0x1E then .ok (.addIX x)
  else if kk = 0x29 then .ok (.ldFX x)
  else if kk = 0x33 then .ok (.ldBX x)
  else if kk = 0x55 then .ok (.ldMemX x)
  else if kk = 0x65 then .ok (.ldXMem x)
  else .error .familyF

/-- `Dispatch(op)` of 30_encoding.md R83: first the family nibble, then the sub-selector. -/
def decodeWord (op : Word) : Except Reject Instr :=
  let k := fieldKind op
  if k = 0x0 then .ok (dispatch0 op)
  else if k = 0x1 then .ok (.jp (fieldNnn op))
  else if k = 0x2 then .ok (.call (fieldNnn op))
  else if k = 0x3 then .ok (.seKk (fieldX op) (fieldKk op))
  else if k = 0x4 then .ok (.sneKk (fieldX op) (fieldKk op))
  else if k = 0x5 then (if fieldN op = 0 then .ok (.seXy (fieldX op) (fieldY op)) else .error .family5)
  else if k = 0x6 then .ok (.ldKk (fieldX op) (fieldKk op))
  else if k = 0x7 then .ok (.addKk (fieldX op) (fieldKk op))
  else if k = 0x8 then dispatch8 (fieldX op) (fieldY op) (fieldN op)
  else if k = 0x9 then (if fieldN op = 0 then .ok (.sneXy (fieldX op) (fieldY op)) else .error .family9)
  else if k = 0xA then .ok (.ldI (fieldNnn op))
  else if k = 0xB then .ok (.jpV0 (fieldNnn op))
  else if k = 0xC then .ok (.rnd (fieldX op) (fieldKk op))
  else if k = 0xD then .ok (.drw (fieldX op) (fieldY op) (fieldN op))
  else if k = 0xE then dispatchE (fieldX op) (fieldKk op)
  else dispatchF (fieldX op) (fieldKk op)

/-- The instruction word of two bytes: high byte first (20_memory.md R53). -/
def wordOfBytes (hi lo : Byte) : Word := hi ++ lo

/-- The high byte of a word, stored at the lower address (20_memory.md R53). -/
def highByte (w : Word) : Byte := w.extractLsb' 8 8

/-- The low byte of a word, stored at the higher address (20_memory.md R53). -/
def lowByte (w : Word) : Byte := w.extractLsb' 0 8

/-- The decoder on a byte string: the first instruction and the bytes after it. -/
def decode : List Byte → Except Reject (Instr × List Byte)
  | hi :: lo :: rest =>
    match decodeWord (wordOfBytes hi lo) with
    | .ok i => .ok (i, rest)
    | .error r => .error r
  | _ => .error .truncated

/-! ## The encoder (30_encoding.md R72) -/

/-- Format NNN: opc, nnn. -/
def wordNnn (opc : BitVec 4) (nnn : BitVec 12) : Word := opc ++ nnn

/-- Format XKK, and XSUB with a fixed low byte: opc, x, kk. -/
def wordXkk (opc : BitVec 4) (x : RegIdx) (kk : Byte) : Word := opc ++ x ++ kk

/-- Format XYN, and XY with a fixed low nibble: opc, x, y, n. -/
def wordXyn (opc : BitVec 4) (x y : RegIdx) (n : BitVec 4) : Word := opc ++ x ++ y ++ n

/-- The word of an instruction. -/
def encode : Instr → Word
  | .sys nnn => wordNnn 0x0 nnn
  | .cls => 0x00E0
  | .ret => 0x00EE
  | .jp nnn => wordNnn 0x1 nnn
  | .call nnn => wordNnn 0x2 nnn
  | .seKk x kk => wordXkk 0x3 x kk
  | .sneKk x kk => wordXkk 0x4 x kk
  | .seXy x y => wordXyn 0x5 x y 0x0
  | .ldKk x kk => wordXkk 0x6 x kk
  | .addKk x kk => wordXkk 0x7 x kk
  | .ldXy x y => wordXyn 0x8 x y 0x0
  | .or x y => wordXyn 0x8 x y 0x1
  | .and x y => wordXyn 0x8 x y 0x2
  | .xor x y => wordXyn 0x8 x y 0x3
  | .addXy x y => wordXyn 0x8 x y 0x4
  | .sub x y => wordXyn 0x8 x y 0x5
  | .shr x y => wordXyn 0x8 x y 0x6
  | .subn x y => wordXyn 0x8 x y 0x7
  | .shl x y => wordXyn 0x8 x y 0xE
  | .sneXy x y => wordXyn 0x9 x y 0x0
  | .ldI nnn => wordNnn 0xA nnn
  | .jpV0 nnn => wordNnn 0xB nnn
  | .rnd x kk => wordXkk 0xC x kk
  | .drw x y n => wordXyn 0xD x y n
  | .skp x => wordXkk 0xE x 0x9E
  | .sknp x => wordXkk 0xE x 0xA1
  | .ldXDt x => wordXkk 0xF x 0x07
  | .ldXK x => wordXkk 0xF x 0x0A
  | .ldDtX x => wordXkk 0xF x 0x15
  | .ldStX x => wordXkk 0xF x 0x18
  | .addIX x => wordXkk 0xF x 0x1E
  | .ldFX x => wordXkk 0xF x 0x29
  | .ldBX x => wordXkk 0xF x 0x33
  | .ldMemX x => wordXkk 0xF x 0x55
  | .ldXMem x => wordXkk 0xF x 0x65

/-- The bytes of an instruction as memory holds them. -/
def encodeBytes (i : Instr) : List Byte := [highByte (encode i), lowByte (encode i)]

/-! ## The opcode table's numbering -/

/-- The one 16-bit word that `nbits` bits `w` of an opcode-table row stand for: bit 0 is the word's least significant
bit, the bits above `nbits` are 0 (DEDUCED, log 20). -/
def tableWord (nbits w : Nat) : Word := BitVec.ofNat 16 (w % 2 ^ nbits)

/-- The instruction the decoder reads from an opcode-table word laid out as the hardware stores it. -/
def decodeTableWord (nbits w : Nat) : Option Instr :=
  match decode [highByte (tableWord nbits w), lowByte (tableWord nbits w)] with
  | .ok (i, _) => some i
  | .error _ => none

end Sys2Proof
end

