-- ==== Sys2Proof/Config.lean ====
section
/-! DEFINITION. What the spec leaves to the implementer: the named parameters of 00_scope.md R6 as plain data, and
the two free values (the random draws and an unnamed key-selection rule). The default values of the parameters
stand in Machine/Params.lean. -/

namespace Sys2Proof

/-- SYS_POLICY (00_scope.md R6; 40_control_flow.md R100): what a 0nnn word does. -/
inductive SysPolicy where
  /-- 0nnn raises UnknownOpcode (the default). -/
  | fault
  /-- 0nnn has no effect beyond the PC advance. -/
  | nop
  deriving DecidableEq, Repr

/-- VF_DEST_POLICY (00_scope.md R6; 41_alu.md R121): the order of the result write and the flag write. -/
inductive VfDestPolicy where
  /-- Vx first, then VF, for all five instructions (the default). -/
  | flagLast
  /-- The order of the source's table: Vx then VF for 8xy4, VF then Vx for the other four. -/
  | textual
  deriving DecidableEq, Repr

/-- KEY_SELECT (00_scope.md R6; 44_keypad_timers.md R193): the key Fx0A takes when several are pressed. -/
inductive KeySelect where
  /-- The lowest-numbered pressed key (the default). -/
  | lowest
  /-- Some other rule that picks a pressed key: the free value `Config.keyPick` (DESIGN CHOICE, log 4, safe). -/
  | other
  deriving DecidableEq, Repr

/-- The parameters of 00_scope.md R6 that are data. No transition of the machine changes them (log 1). -/
structure Config where
  /-- FONT_BASE: any address at which the 80 bytes of the table lie inside MEM (DESIGN CHOICE, log 15, safe). -/
  fontBase : Fin 4017
  /-- FONT_TABLE: 16 glyphs of 5 bytes (10_state.md R36). -/
  fontTable : Vector Byte 80
  sysPolicy : SysPolicy
  vfDest : VfDestPolicy
  keySelect : KeySelect
  deriving DecidableEq, Repr

/-- RAND (41_alu.md R133): the draw with number `n`, under no law at all. A free value: it has no body, so nothing
can be proved of what a draw is (log 3). -/
opaque Config.rand : Nat → Byte

/-- The pick of a KEY_SELECT rule other than the default, from the pressed keys. A free value (log 4). -/
opaque Config.keyPick : Word → RegIdx

end Sys2Proof
end

