-- ==== Sys2Proof/Machine/Params.lean ====
section
/-! DEFINITION. The default values of the parameters of 00_scope.md R6, as the spec gives them (log 2). -/

namespace Sys2Proof.Machine

/-- FONT_TABLE by default: the standard CHIP-8 font of 10_state.md R36, which the spec marks as general knowledge
(D6; log 2). Glyph d is bytes 5d to 5d+4. -/
def defaultFontTable : Vector Byte 80 :=
  #v[0xF0, 0x90, 0x90, 0x90, 0xF0,  0x20, 0x60, 0x20, 0x20, 0x70,
     0xF0, 0x10, 0xF0, 0x80, 0xF0,  0xF0, 0x10, 0xF0, 0x10, 0xF0,
     0x90, 0x90, 0xF0, 0x10, 0x10,  0xF0, 0x80, 0xF0, 0x10, 0xF0,
     0xF0, 0x80, 0xF0, 0x90, 0xF0,  0xF0, 0x10, 0x20, 0x40, 0x40,
     0xF0, 0x90, 0xF0, 0x90, 0xF0,  0xF0, 0x90, 0xF0, 0x10, 0xF0,
     0xF0, 0x90, 0xF0, 0x90, 0x90,  0xE0, 0x90, 0xE0, 0x90, 0xE0,
     0xF0, 0x80, 0x80, 0x80, 0xF0,  0xE0, 0x90, 0x90, 0x90, 0xE0,
     0xF0, 0x80, 0xF0, 0x80, 0xF0,  0xF0, 0x80, 0xF0, 0x80, 0x80]

/-- The parameters a newly created machine has: FONT_BASE 0x000 (D5), the standard font (D6), SYS_POLICY fault (D4),
VF_DEST_POLICY flag_last (D2), KEY_SELECT lowest (D8); all of them the defaults of 00_scope.md R6 (log 2). -/
def defaultConfig : Config where
  fontBase := 0
  fontTable := defaultFontTable
  sysPolicy := .fault
  vfDest := .flagLast
  keySelect := .lowest

end Sys2Proof.Machine
end

