-- ==== Sys2Proof/Machine/State.lean ====
section
/-! DEFINITION. The state tuple of 10_state.md R20 as plain data, with the model's own two fields (`draws` and `config`),
the ways a step can stop, and the state after reset (10_state.md R38). -/

namespace Sys2Proof.Machine

/-- FaultCode (60_exceptions.md R210). -/
inductive FaultCode where
  /-- No fault latched. -/
  | none
  /-- The word matches no instruction, or is a SYS word under SYS_POLICY = fault. -/
  | unknownOpcode
  /-- CALL with SP = 16. -/
  | stackOverflow
  /-- RET with SP = 0. -/
  | stackUnderflow
  /-- Fetch past 0xFFE, a memory range past 0xFFF, or a key index above 0xF. -/
  | outOfBounds
  /-- A load result: the ROM is longer than 3584 bytes. Never latched in STATUS (60_exceptions.md R218). -/
  | romTooLarge
  /-- A load result of the loader collaborator: its source ran out. Never latched in STATUS (60_exceptions.md R218). -/
  | truncatedSource
  deriving DecidableEq, Repr

/-- STATUS, the fault latch (10_state.md R33). -/
structure Status where
  code : FaultCode
  /-- PC at the fetch of the faulting instruction. -/
  fpc : Word
  /-- The opcode word of the faulting instruction, 0x0000 for a fetch fault. -/
  fop : Word
  deriving DecidableEq, Repr

/-- The state of the machine (10_state.md R20). -/
structure State where
  /-- MEM: the bytes that differ from what an unlisted address reads as, at strictly rising addresses
  (`Memory.wf`; log 9). -/
  mem : List Host.Cell
  /-- V0 to VF (10_state.md R21). -/
  v : Vector Byte 16
  /-- I, the index register (10_state.md R24). -/
  i : Word
  /-- PC (10_state.md R25). -/
  pc : Word
  /-- SP, the number of return addresses on the stack, 0 to 16 (10_state.md R27). -/
  sp : Fin 17
  /-- STACK (10_state.md R28). -/
  stack : Vector Word 16
  /-- DT, the delay timer (10_state.md R29). -/
  dt : Byte
  /-- ST, the sound timer (10_state.md R30). -/
  st : Byte
  /-- KEY: bit k is 1 while key k is pressed (10_state.md R31; log 14). -/
  key : Word
  /-- FB: 32 rows, bit c of row r is the pixel at column c (10_state.md R32; log 13). -/
  fb : Vector (BitVec 64) 32
  /-- STATUS (10_state.md R33). -/
  status : Status
  /-- The model's own: how many RAND draws have been taken (41_alu.md R133; log 3). -/
  draws : Nat
  /-- The model's own: the parameters of 00_scope.md R6, which nothing changes (log 1). -/
  config : Config
  deriving DecidableEq, Repr

/-- The ways a step can stop the model. There are none: every fault of the spec is TAKEN, that is, it is a next state
with STATUS latched (60_exceptions.md R213, R214; logs 5, 21). -/
inductive Fault where
  deriving DecidableEq, Repr

/-- The ways the model can decline to give a meaning. -/
inductive Refusal where
  /-- Raised by no arm of `exec`: every instruction has its meaning. It would be safe: the model stops where the
  hardware goes on. -/
  | notModelled (mnemonic : String)
  deriving DecidableEq, Repr

/-- The machine right after reset: the table of 10_state.md R38, with the default parameters (log 2) and no draw taken
(DESIGN CHOICE, log 3). `mem` lists nothing: every byte reads as its reset content (log 9). -/
def State.reset : State where
  mem := []
  v := Vector.replicate 16 0x00
  i := 0x0000
  pc := 0x0200
  sp := 0
  stack := Vector.replicate 16 0x0000
  dt := 0x00
  st := 0x00
  key := 0x0000
  fb := Vector.replicate 32 0
  status := { code := .none, fpc := 0x0000, fop := 0x0000 }
  draws := 0
  config := defaultConfig

end Sys2Proof.Machine
end

