-- ==== Sys2Proof/Machine/Ops.lean ====
section
/-! DEFINITION. The named operations over the state: memory (20_memory.md R50 to R58), the register file (10_state.md
R21), taking a fault (60_exceptions.md R213, R214), the program counter and the stack (40_control_flow.md R101, R103),
the key array (10_state.md R31). The core has no return from a fault (60_exceptions.md R217): only the host's reset ends
one, and it stands in HostOps.lean. -/

namespace Sys2Proof.Machine

/-- What a meaning answers. -/
abbrev Result := Host.Outcome State Fault Refusal

/-! ## Memory -/

/-- What address `a` reads as when nothing is listed for it: the reset contents of MEM, the font table at FONT_BASE and
0x00 everywhere else (10_state.md R38, 70_reset_and_hazards.md R240; log 9). -/
def resetByte (c : Config) (a : Nat) : Byte :=
  if h : c.fontBase.val ≤ a ∧ a < c.fontBase.val + 80 then c.fontTable[a - c.fontBase.val]'(by omega) else 0x00

/-- The listed byte at `a`. -/
def Memory.lookup : List Host.Cell → Nat → Option Byte
  | [], _ => none
  | (k, b) :: m, a => if k = a then some b else Memory.lookup m a

/-- List `b` at `a`, at its place among the rising addresses, in place of what was listed there. -/
def Memory.insert (a : Nat) (b : Byte) : List Host.Cell → List Host.Cell
  | [] => [(a, b)]
  | (k, c) :: m =>
    if a < k then (a, b) :: (k, c) :: m
    else if k = a then (a, b) :: m
    else (k, c) :: Memory.insert a b m

/-- List nothing at `a`. -/
def Memory.erase (a : Nat) : List Host.Cell → List Host.Cell
  | [] => []
  | (k, c) :: m => if k = a then Memory.erase a m else (k, c) :: Memory.erase a m

/-- `MemRead(a, 1)` (00_scope.md R10). Every caller checks `a < 4096` first (20_memory.md R54; log 10). -/
def Memory.read (c : Config) (m : List Host.Cell) (a : Nat) : Byte :=
  (Memory.lookup m a).getD (resetByte c a)

/-- `MemWrite(a, 1, b)` (00_scope.md R10), in canonical form: a byte equal to the reset content is not listed. -/
def Memory.write (c : Config) (m : List Host.Cell) (a : Nat) (b : Byte) : List Host.Cell :=
  if b = resetByte c a then Memory.erase a m else Memory.insert a b m

/-- The canonical form from address `lo` up: strictly rising addresses inside MEM, no byte equal to the reset content. -/
def Memory.wfFrom (c : Config) (lo : Nat) : List Host.Cell → Bool
  | [] => true
  | (k, b) :: m => decide (lo ≤ k) && decide (k < memSize) && b != resetByte c k && Memory.wfFrom c (k + 1) m

/-- The canonical form of a memory (log 9). -/
def Memory.wf (c : Config) (m : List Host.Cell) : Bool := Memory.wfFrom c 0 m

/-- The byte at `a`. -/
def State.readByte (s : State) (a : Nat) : Byte := Memory.read s.config s.mem a

/-- Store one byte at `a`. -/
def State.writeByte (s : State) (a : Nat) (b : Byte) : State := { s with mem := Memory.write s.config s.mem a b }

/-- Store a list of bytes at `a`, `a + 1`, … in this order. -/
def State.writeBytes (s : State) (a : Nat) : List Byte → State
  | [] => s
  | b :: bs => (s.writeByte a b).writeBytes (a + 1) bs

/-- The bounds check of 20_memory.md R54 on the byte range `[a, a + len)`, in unbounded naturals. -/
def rangeOk (a len : Nat) : Bool := decide (a + len ≤ memSize)

/-! ## Register file (10_state.md R21) -/

/-- `V[x]`. -/
def State.getV (s : State) (x : RegIdx) : Byte := s.v[x.toNat]'(by have := x.isLt; omega)

/-- `V[x] <- b`. -/
def State.setV (s : State) (x : RegIdx) (b : Byte) : State :=
  { s with v := s.v.set x.toNat b (by have := x.isLt; omega) }

/-- `V[0]` to `V[k-1]` loaded from `a`, `a + 1`, …, counting up (42_index_memory.md R155). -/
def State.loadRegs (s : State) (a : Nat) : Nat → State
  | 0 => s
  | k + 1 =>
    let t := s.loadRegs a k
    t.setV (BitVec.ofNat 4 k) (t.readByte (a + k))

/-! ## Taking a fault (60_exceptions.md R213, R214) -/

/-- Latch fault `f` of the instruction at `fpc` with word `fop`: STATUS is written and nothing else. -/
def State.latch (s : State) (f : FaultCode) (fpc fop : Word) : State :=
  { s with status := { code := f, fpc := fpc, fop := fop } }

/-- `raise f(fpc, op)` after the PC advance: the faulting instruction is at PC - 2, and PC keeps the advanced value
(30_encoding.md R82; log 6). The fault is taken: a next state (log 5). -/
def raise (f : FaultCode) (op : Word) (s : State) : Result := .next (s.latch f (s.pc - 2) op)

/-! ## Program counter -/

/-- The PC advance of the fetch unit, and a taken skip (30_encoding.md R82). -/
def State.advance (s : State) : State := { s with pc := s.pc + 2 }

/-- A skip: one more advance when the condition holds (40_control_flow.md R104). -/
def State.skipIf (s : State) (cond : Bool) : State := if cond then s.advance else s

/-- PC back to the instruction's own address (44_keypad_timers.md R193). -/
def State.rewind (s : State) : State := { s with pc := s.pc - 2 }

/-- `PC <- target`, with no check (40_control_flow.md R109). -/
def State.jump (s : State) (target : Word) : State := { s with pc := target }

/-! ## Stack (10_state.md R27, R28) -/

/-- `STACK[SP] <- a; SP <- SP + 1`, when the stack is not full. -/
def State.push (s : State) (a : Word) (h : s.sp.val < 16) : State :=
  { s with stack := s.stack.set s.sp.val a h, sp := ⟨s.sp.val + 1, by omega⟩ }

/-- `SP <- SP - 1`, when the stack is not empty; the popped slot keeps its value. -/
def State.pop (s : State) : State := { s with sp := ⟨s.sp.val - 1, by omega⟩ }

/-- `STACK[SP]`; with SP = 16 there is no such entry, and no caller asks for one. -/
def State.top (s : State) : Word := if h : s.sp.val < 16 then s.stack[s.sp.val] else 0x0000

/-! ## Keys (10_state.md R31) -/

/-- `KEY[k]`. -/
def keyDown (key : Word) (k : RegIdx) : Bool := key.getLsbD k.toNat

/-- The lowest k with KEY[k] = 1; key 0 when none is pressed, which no caller asks for. -/
def lowestKey (key : Word) : RegIdx :=
  BitVec.ofNat 4 (((List.range 16).find? (fun k => key.getLsbD k)).getD 0)

/-- `KEY_SELECT(KEY)` (44_keypad_timers.md R193): the default rule, or another rule that picks a pressed key (log 4). -/
def selectKey (c : Config) (key : Word) : RegIdx :=
  match c.keySelect with
  | .lowest => lowestKey key
  | .other => if keyDown key (Config.keyPick key) then Config.keyPick key else lowestKey key

end Sys2Proof.Machine
end

