-- ==== Sys2Proof/Machine/Operands.lean ====
section
/-! DEFINITION. The operand forms: zero-extended immediates and registers (00_scope.md R9, 30_encoding.md R71), the
addresses and byte ranges the memory instructions form from I, and the byte lists they store. -/

namespace Sys2Proof.Machine

/-- `zext_16(nnn)`, an absolute target or an index value (40_control_flow.md R102, 42_index_memory.md R150). -/
def zextNnn (nnn : BitVec 12) : Word := nnn.zeroExtend 16

/-- `zext_16(V[x])` (00_scope.md R9). -/
def zextByte (b : Byte) : Word := b.zeroExtend 16

/-- The first address of a memory operand: I as it is, never masked (10_state.md R24). -/
def State.base (s : State) : Nat := s.i.toNat

/-- The target of Bnnn: nnn + V0, not masked (40_control_flow.md R108). -/
def jumpV0Target (nnn : BitVec 12) (s : State) : Word := zextNnn nnn + zextByte (s.getV 0)

/-- The address of a font glyph: FONT_BASE + 5 * Vx, Vx not masked (42_index_memory.md R152). -/
def glyphAddress (c : Config) (b : Byte) : Word := BitVec.ofNat 16 (c.fontBase.val + 5 * b.toNat)

/-- The three decimal digits of a byte, hundreds first (42_index_memory.md R153). -/
def bcdDigits (b : Byte) : List Byte :=
  [BitVec.ofNat 8 (b.toNat / 100), BitVec.ofNat 8 (b.toNat / 10 % 10), BitVec.ofNat 8 (b.toNat % 10)]

/-- How many registers V0 to Vx are (42_index_memory.md R154, R155). -/
def blockLength (x : RegIdx) : Nat := x.toNat + 1

/-- The bytes of V0 to Vx, V0 first (42_index_memory.md R154). -/
def State.regBytes (s : State) (x : RegIdx) : List Byte :=
  (List.range (blockLength x)).map (fun k => s.getV (BitVec.ofNat 4 k))

/-- The key a register names, when it names one (44_keypad_timers.md R190). -/
def keyOperand (b : Byte) : Option RegIdx := if b.toNat ≤ 0xF then some (BitVec.ofNat 4 b.toNat) else none

/-- The start column of a sprite: Vx mod 64 (43_display.md R171). -/
def startCol (b : Byte) : Nat := b.toNat % 64

/-- The start row of a sprite: Vy mod 32 (43_display.md R171). -/
def startRow (b : Byte) : Nat := b.toNat % 32

end Sys2Proof.Machine
end

