-- ==== Sys2Proof/Machine/Flags.lean ====
section
/-! DEFINITION. The results and flags of the ALU (41_alu.md R120, R128 to R132, R134) and the order in which a result and
a flag are written (41_alu.md R121). Operands are values already read, so no write can change them (41_alu.md R120). -/

namespace Sys2Proof.Machine

/-- A flag as VF holds it: 1 or 0. -/
def flagByte (f : Bool) : Byte := if f then 1 else 0

/-- A result and the flag that goes with it. -/
structure AluOut where
  result : Byte
  flag : Bool
  deriving DecidableEq, Repr

/-- 8xy4: the sum modulo 256, the flag set when it exceeds 255 (41_alu.md R128). -/
def aluAdd (a b : Byte) : AluOut := ⟨a + b, decide (a.toNat + b.toNat > 255)⟩

/-- 8xy5: a - b modulo 256, the flag set when a >= b (41_alu.md R129). -/
def aluSub (a b : Byte) : AluOut := ⟨a - b, decide (a.toNat ≥ b.toNat)⟩

/-- 8xy6: a shifted right by one, the flag is the bit shifted out (41_alu.md R130). -/
def aluShr (a : Byte) : AluOut := ⟨a >>> 1, a.getLsbD 0⟩

/-- 8xy7: b - a modulo 256, the flag set when b >= a (41_alu.md R131). -/
def aluSubn (a b : Byte) : AluOut := ⟨b - a, decide (b.toNat ≥ a.toNat)⟩

/-- 8xyE: a shifted left by one modulo 256, the flag is the bit shifted out (41_alu.md R132). -/
def aluShl (a : Byte) : AluOut := ⟨a <<< 1, a.getLsbD 7⟩

/-- `V[x] <- r; V[F] <- f`: the flag stays when x = F. -/
def State.resultThenFlag (s : State) (x : RegIdx) (o : AluOut) : State := (s.setV x o.result).setV 0xF (flagByte o.flag)

/-- `V[F] <- f; V[x] <- r`: the result stays when x = F. -/
def State.flagThenResult (s : State) (x : RegIdx) (o : AluOut) : State := (s.setV 0xF (flagByte o.flag)).setV x o.result

/-- `WriteResultAndFlag` of 8xy5, 8xy6, 8xy7 and 8xyE: VF_DEST_POLICY gives the order (41_alu.md R121). -/
def State.writeResultAndFlag (s : State) (x : RegIdx) (o : AluOut) : State :=
  match s.config.vfDest with
  | .flagLast => s.resultThenFlag x o
  | .textual => s.flagThenResult x o

end Sys2Proof.Machine
end

