-- ==== Sys2Proof/Machine/Alu.lean ====
section
/-! DEFINITION. ALU instructions and register moves (41_alu.md). Operands are read before anything is written, and an
instruction writes only what its row names (41_alu.md R120). -/

namespace Sys2Proof.Machine

/-- 6xkk, LD Vx, kk (41_alu.md R122). -/
def execLdKk (x : RegIdx) (kk : Byte) (s : State) : Result := .next (s.setV x kk)

/-- 7xkk, ADD Vx, kk, no flag (41_alu.md R123). -/
def execAddKk (x : RegIdx) (kk : Byte) (s : State) : Result := .next (s.setV x (s.getV x + kk))

/-- 8xy0, LD Vx, Vy (41_alu.md R124). -/
def execLdXy (x y : RegIdx) (s : State) : Result := .next (s.setV x (s.getV y))

/-- 8xy1, OR Vx, Vy, VF not reset (41_alu.md R125). -/
def execOr (x y : RegIdx) (s : State) : Result := .next (s.setV x (s.getV x ||| s.getV y))

/-- 8xy2, AND Vx, Vy, VF not reset (41_alu.md R126). -/
def execAnd (x y : RegIdx) (s : State) : Result := .next (s.setV x (s.getV x &&& s.getV y))

/-- 8xy3, XOR Vx, Vy, VF not reset (41_alu.md R127). -/
def execXor (x y : RegIdx) (s : State) : Result := .next (s.setV x (s.getV x ^^^ s.getV y))

/-- 8xy4, ADD Vx, Vy with carry in VF; VF is written last under both policies (41_alu.md R121, R128). -/
def execAddXy (x y : RegIdx) (s : State) : Result := .next (s.resultThenFlag x (aluAdd (s.getV x) (s.getV y)))

/-- 8xy5, SUB Vx, Vy (41_alu.md R129). -/
def execSub (x y : RegIdx) (s : State) : Result := .next (s.writeResultAndFlag x (aluSub (s.getV x) (s.getV y)))

/-- 8xy6, SHR Vx; Vy is not read (41_alu.md R130). -/
def execShr (x _y : RegIdx) (s : State) : Result := .next (s.writeResultAndFlag x (aluShr (s.getV x)))

/-- 8xy7, SUBN Vx, Vy (41_alu.md R131). -/
def execSubn (x y : RegIdx) (s : State) : Result := .next (s.writeResultAndFlag x (aluSubn (s.getV x) (s.getV y)))

/-- 8xyE, SHL Vx; Vy is not read (41_alu.md R132). -/
def execShl (x _y : RegIdx) (s : State) : Result := .next (s.writeResultAndFlag x (aluShl (s.getV x)))

/-- Vx takes the draw masked with kk, and the draw is used up (41_alu.md R133). -/
def State.loadDraw (s : State) (r : Byte) (x : RegIdx) (kk : Byte) : State :=
  { s.setV x (r &&& kk) with draws := s.draws + 1 }

/-- Cxkk, RND Vx, kk: one fresh draw, a free value (41_alu.md R133; log 3). -/
def execRnd (x : RegIdx) (kk : Byte) (s : State) : Result := .next (s.loadDraw (Config.rand s.draws) x kk)

end Sys2Proof.Machine
end

