-- ==== Sys2Proof/Machine/ControlFlow.lean ====
section
/-! DEFINITION. Control flow and stack instructions (40_control_flow.md). Every meaning runs with PC already at the
instruction's own address plus 2 (30_encoding.md R82); a fault is raised before the first write. -/

namespace Sys2Proof.Machine

/-- 0nnn, SYS nnn: UnknownOpcode or no effect, as SYS_POLICY says (40_control_flow.md R100). -/
def execSys (nnn : BitVec 12) (s : State) : Result :=
  match s.config.sysPolicy with
  | .fault => raise .unknownOpcode (encode (.sys nnn)) s
  | .nop => .next s

/-- 00EE, RET: StackUnderflow when SP = 0, else pop into PC (40_control_flow.md R101). -/
def execRet (s : State) : Result :=
  if s.sp.val = 0 then raise .stackUnderflow (encode .ret) s
  else .next (s.pop.jump s.pop.top)

/-- 1nnn, JP nnn (40_control_flow.md R102). -/
def execJp (nnn : BitVec 12) (s : State) : Result := .next (s.jump (zextNnn nnn))

/-- 2nnn, CALL nnn: StackOverflow when SP = 16, else push PC and jump (40_control_flow.md R103). -/
def execCall (nnn : BitVec 12) (s : State) : Result :=
  if h : s.sp.val < 16 then .next ((s.push s.pc h).jump (zextNnn nnn))
  else raise .stackOverflow (encode (.call nnn)) s

/-- 3xkk, SE Vx, kk (40_control_flow.md R104). -/
def execSeKk (x : RegIdx) (kk : Byte) (s : State) : Result := .next (s.skipIf (s.getV x == kk))

/-- 4xkk, SNE Vx, kk (40_control_flow.md R105). -/
def execSneKk (x : RegIdx) (kk : Byte) (s : State) : Result := .next (s.skipIf (s.getV x != kk))

/-- 5xy0, SE Vx, Vy (40_control_flow.md R106). -/
def execSeXy (x y : RegIdx) (s : State) : Result := .next (s.skipIf (s.getV x == s.getV y))

/-- 9xy0, SNE Vx, Vy (40_control_flow.md R107). -/
def execSneXy (x y : RegIdx) (s : State) : Result := .next (s.skipIf (s.getV x != s.getV y))

/-- Bnnn, JP V0, nnn (40_control_flow.md R108). -/
def execJpV0 (nnn : BitVec 12) (s : State) : Result := .next (s.jump (jumpV0Target nnn s))

end Sys2Proof.Machine
end

