-- ==== Sys2Proof/Machine/Screen.lean ====
section
/-! DEFINITION. The framebuffer, the XOR-draw unit and the collision detector (43_display.md R170 to R173). -/

namespace Sys2Proof.Machine

/-- The framebuffer: 32 rows of 64 one-bit pixels (10_state.md R32). -/
abbrev Screen := Vector (BitVec 64) 32

/-- `FB[row][col]` (43_display.md R172); false outside the grid, which no caller asks for. -/
def Screen.pixel (f : Screen) (row col : Nat) : Bool := if h : row < 32 then (f[row]).getLsbD col else false

/-- `FB[row][col] <- FB[row][col] XOR 1`. -/
def Screen.toggle (f : Screen) (row col : Nat) : Screen :=
  if h : row < 32 then f.set row (f[row] ^^^ BitVec.twoPow 64 col) else f

/-- Every pixel off (43_display.md R170). -/
def Screen.clear : Screen := Vector.replicate 32 0

/-- The drawing so far: the framebuffer, and whether a pixel that was on has been turned off. -/
structure Drawing where
  fb : Screen
  collide : Bool
  deriving DecidableEq, Repr

/-- One set sprite bit: note a pixel that is on, then toggle it (43_display.md R171). -/
def Drawing.plot (d : Drawing) (row col : Nat) : Drawing where
  fb := Screen.toggle d.fb row col
  collide := d.collide || Screen.pixel d.fb row col

/-- Columns `0` to `k - 1` of sprite byte `b` on screen row `row`, bit 7 at column `x0`, wrapping right to left
(43_display.md R171). -/
def Drawing.drawCols (d : Drawing) (b : Byte) (row x0 : Nat) : Nat → Drawing
  | 0 => d
  | c + 1 =>
    let e := d.drawCols b row x0 c
    if b.getLsbD (7 - c) then e.plot row ((x0 + c) % 64) else e

/-- Rows `0` to `k - 1` of the sprite whose row r is `sprite r`, wrapping bottom to top (43_display.md R171). -/
def Drawing.drawRows (d : Drawing) (sprite : Nat → Byte) (x0 y0 : Nat) : Nat → Drawing
  | 0 => d
  | r + 1 => (d.drawRows sprite x0 y0 r).drawCols (sprite r) ((y0 + r) % 32) x0 8

/-- The drawing of Dxyn: `n` sprite rows from MEM[I], at (Vx mod 64, Vy mod 32) (43_display.md R171). -/
def State.drawSprite (s : State) (x y : RegIdx) (n : Nat) : Drawing :=
  ({ fb := s.fb, collide := false } : Drawing).drawRows (fun r => s.readByte (s.base + r))
    (startCol (s.getV x)) (startRow (s.getV y)) n

/-- The output `fb_out`: bit row * 64 + col is FB[row][col] (43_display.md R172). -/
def Screen.out (f : Screen) : BitVec 2048 :=
  BitVec.ofFnLE (fun k : Fin 2048 => Screen.pixel f (k.val / 64) (k.val % 64))

end Sys2Proof.Machine
end

