-- ==== Sys2Proof/Machine/Display.lean ====
section
/-! DEFINITION. The two display instructions (43_display.md R170, R171). -/

namespace Sys2Proof.Machine

/-- `FB <- f`. -/
def State.setFb (s : State) (f : Screen) : State := { s with fb := f }

/-- 00E0, CLS (43_display.md R170). -/
def execCls (s : State) : Result := .next (s.setFb Screen.clear)

/-- Dxyn, DRW Vx, Vy, n: OutOfBounds, or draw with XOR and write the collision to VF after the drawing; the coordinates
are read before VF is written (43_display.md R171). -/
def execDrw (x y : RegIdx) (n : BitVec 4) (s : State) : Result :=
  if rangeOk s.base n.toNat then
    .next ((s.setFb (s.drawSprite x y n.toNat).fb).setV 0xF (flagByte (s.drawSprite x y n.toNat).collide))
  else raise .outOfBounds (encode (.drw x y n)) s

end Sys2Proof.Machine
end

