-- ==== Sys2Proof/Machine/IndexMemory.lean ====
section
/-! DEFINITION. Index register and memory-block instructions (42_index_memory.md). The whole byte range is checked before
the first access (20_memory.md R54). -/

namespace Sys2Proof.Machine

/-- `I <- a`. -/
def State.setI (s : State) (a : Word) : State := { s with i := a }

/-- Annn, LD I, nnn (42_index_memory.md R150). -/
def execLdI (nnn : BitVec 12) (s : State) : Result := .next (s.setI (zextNnn nnn))

/-- Fx1E, ADD I, Vx, modulo 2^16, VF not written (42_index_memory.md R151). -/
def execAddIX (x : RegIdx) (s : State) : Result := .next (s.setI (s.i + zextByte (s.getV x)))

/-- Fx29, LD F, Vx (42_index_memory.md R152). -/
def execLdFX (x : RegIdx) (s : State) : Result := .next (s.setI (glyphAddress s.config (s.getV x)))

/-- Fx33, LD B, Vx: OutOfBounds or the three decimal digits at I (42_index_memory.md R153). -/
def execLdBX (x : RegIdx) (s : State) : Result :=
  if rangeOk s.base 3 then .next (s.writeBytes s.base (bcdDigits (s.getV x)))
  else raise .outOfBounds (encode (.ldBX x)) s

/-- Fx55, LD [I], Vx: OutOfBounds or V0 to Vx stored at I, I not changed (42_index_memory.md R154). -/
def execLdMemX (x : RegIdx) (s : State) : Result :=
  if rangeOk s.base (blockLength x) then .next (s.writeBytes s.base (s.regBytes x))
  else raise .outOfBounds (encode (.ldMemX x)) s

/-- Fx65, LD Vx, [I]: OutOfBounds or V0 to Vx loaded from I, I not changed (42_index_memory.md R155). -/
def execLdXMem (x : RegIdx) (s : State) : Result :=
  if rangeOk s.base (blockLength x) then .next (s.loadRegs s.base (blockLength x))
  else raise .outOfBounds (encode (.ldXMem x)) s

end Sys2Proof.Machine
end

