-- ==== Sys2Proof/Machine/KeypadTimers.lean ====
section
/-! DEFINITION. Keypad and timer instructions (44_keypad_timers.md R190 to R195). -/

namespace Sys2Proof.Machine

/-- Ex9E, SKP Vx: OutOfBounds when Vx > 0xF, else skip if the key is pressed (44_keypad_timers.md R190). -/
def execSkp (x : RegIdx) (s : State) : Result :=
  match keyOperand (s.getV x) with
  | some k => .next (s.skipIf (keyDown s.key k))
  | none => raise .outOfBounds (encode (.skp x)) s

/-- ExA1, SKNP Vx: OutOfBounds when Vx > 0xF, else skip if the key is not pressed (44_keypad_timers.md R191). -/
def execSknp (x : RegIdx) (s : State) : Result :=
  match keyOperand (s.getV x) with
  | some k => .next (s.skipIf (!keyDown s.key k))
  | none => raise .outOfBounds (encode (.sknp x)) s

/-- Fx07, LD Vx, DT (44_keypad_timers.md R192). -/
def execLdXDt (x : RegIdx) (s : State) : Result := .next (s.setV x s.dt)

/-- Fx0A, LD Vx, K: while no key is pressed PC goes back to this instruction, else Vx takes the selected key
(44_keypad_timers.md R193). -/
def execLdXK (x : RegIdx) (s : State) : Result :=
  if s.key = 0x0000 then .next s.rewind
  else .next (s.setV x ((selectKey s.config s.key).zeroExtend 8))

/-- `DT <- b`. -/
def State.setDt (s : State) (b : Byte) : State := { s with dt := b }

/-- `ST <- b`. -/
def State.setSt (s : State) (b : Byte) : State := { s with st := b }

/-- Fx15, LD DT, Vx (44_keypad_timers.md R194). -/
def execLdDtX (x : RegIdx) (s : State) : Result := .next (s.setDt (s.getV x))

/-- Fx18, LD ST, Vx (44_keypad_timers.md R195). -/
def execLdStX (x : RegIdx) (s : State) : Result := .next (s.setSt (s.getV x))

end Sys2Proof.Machine
end

