-- ==== Sys2Proof/Machine/Fetch.lean ====
section
/-! DEFINITION. The fetch unit (30_encoding.md R80 steps 1 and 2), and the placing of one word where the next fetch
reads. -/

namespace Sys2Proof.Machine

/-- Fetch can read PC and PC + 1: PC is at most 0xFFE (30_encoding.md R81). No alignment is asked (20_memory.md R56). -/
def State.canFetch (s : State) : Bool := decide (s.pc.toNat ≤ 0x0FFE)

/-- The word at PC, high byte first (30_encoding.md R81). -/
def State.fetchWord (s : State) : Word := wordOfBytes (s.readByte s.pc.toNat) (s.readByte (s.pc.toNat + 1))

/-- The instruction at PC is done fetching: no fault is latched, PC is inside memory. -/
def State.ready (s : State) : Bool := decide (s.status.code = .none) && s.canFetch

/-- Make the next step fetch: where `s` holds a latched fault it is cleared, and where PC is past 0xFFE it goes to
PROGRAM_BASE; a state that can fetch is not changed (log 8). -/
def State.makeReady (s : State) : State :=
  { s with
    status := if s.status.code = .none then s.status else { code := .none, fpc := 0x0000, fop := 0x0000 }
    pc := if s.canFetch then s.pc else 0x0200 }

/-- Store a word at PC as memory holds it, high byte first (20_memory.md R53). -/
def State.placeWord (s : State) (w : Word) : State := s.writeBytes s.pc.toNat [highByte w, lowByte w]

end Sys2Proof.Machine
end

