-- ==== Sys2Proof/Machine/Step.lean ====
section
/-! DEFINITION. The step cycle of 30_encoding.md R80. -/

namespace Sys2Proof.Machine

/-- One step: a latched fault changes nothing (60_exceptions.md R216); a fetch past 0xFFE faults with PC not advanced
(30_encoding.md R81); else fetch, advance PC by 2, dispatch, and execute or raise UnknownOpcode (30_encoding.md R82,
R84). -/
def step (s : State) : Host.Outcome State Fault Refusal :=
  if s.status.code ≠ .none then .next s
  else if s.canFetch then
    match decodeWord s.fetchWord with
    | .ok i => exec i s.advance
    | .error _ => raise .unknownOpcode s.fetchWord s.advance
  else .next (s.latch .outOfBounds s.pc 0x0000)

/-- `s` with the opcode-table word placed where the next step fetches (log 8). -/
def State.withFetchWord (s : State) (nbits w : Nat) : State := s.makeReady.placeWord (tableWord nbits w)

end Sys2Proof.Machine
end

