-- ==== Sys2Proof/Machine/HostOps.lean ====
section
/-! DEFINITION. The host agent: its operations on the state, each one atomic transition between steps (00_scope.md R7),
and the output ports (10_state.md R37). -/

namespace Sys2Proof.Machine

/-- What an operation reports: OK, or a fault code (10_state.md R37, `step_result` and `load_result`). -/
inductive Report where
  | ok
  | fault (f : FaultCode)
  deriving DecidableEq, Repr

/-! ## Operations -/

/-- Decrement a timer that is not zero (44_keypad_timers.md R196). -/
def tickTimer (t : Byte) : Byte := if t = 0 then 0 else t - 1

/-- `tick_timers` (44_keypad_timers.md R196). -/
def State.tickTimers (s : State) : State := { s with dt := tickTimer s.dt, st := tickTimer s.st }

/-- `key_in` (44_keypad_timers.md R197). -/
def State.keyIn (s : State) (keys : Word) : State := { s with key := keys }

/-- `reset`, at any time, also after a fault (70_reset_and_hazards.md R240, R241). The random source is not reset, since
it is no state of the core, and the parameters are the machine's own (log 12). -/
def State.hostReset (s : State) : State := { State.reset with draws := s.draws, config := s.config }

/-- `load_rom`: all of the bytes at 0x200 and up, or RomTooLarge and nothing written (70_reset_and_hazards.md R242). -/
def State.loadRom (s : State) (rom : List Byte) : Report × State :=
  if programBase + rom.length ≤ memSize then (.ok, s.writeBytes programBase rom) else (.fault .romTooLarge, s)

/-- The loader collaborator, asked for a ROM of `len` bytes from a source that has the bytes `source`: when the source
runs out it reports TruncatedSource and calls no `load_rom` (70_reset_and_hazards.md R243; log 19). -/
def State.loadFrom (s : State) (len : Nat) (source : List Byte) : Report × State :=
  if len ≤ source.length then s.loadRom (source.take len) else (.fault .truncatedSource, s)

/-! ## Outputs -/

/-- `step_result` of the step that ended in this state: OK, or the fault that is now latched (60_exceptions.md R214,
R216; log 5). -/
def State.stepResult (s : State) : Report := if s.status.code = .none then .ok else .fault s.status.code

/-- `fb_out` (43_display.md R172). -/
def State.fbOut (s : State) : BitVec 2048 := Screen.out s.fb

/-- `sound_on` (10_state.md R30). -/
def State.soundOn (s : State) : Bool := s.st != 0

/-- The 3-bit number of a fault code (60_exceptions.md R210). -/
def FaultCode.number : FaultCode → BitVec 3
  | .none => 0
  | .unknownOpcode => 1
  | .stackOverflow => 2
  | .stackUnderflow => 3
  | .outOfBounds => 4
  | .romTooLarge => 5
  | .truncatedSource => 6

/-! ## All transitions (20_memory.md R60) -/

/-- One transition of either agent (00_scope.md R7). -/
inductive Event where
  | step
  | tick
  | keys (k : Word)
  | reset
  | load (rom : List Byte)
  deriving DecidableEq, Repr

/-- The state after the step, which always answers a next state. -/
def State.afterStep (s : State) : State :=
  match step s with
  | .next t => t
  | .fault _ => s
  | .refused _ => s

/-- The state after a transition. -/
def transition (e : Event) (s : State) : State :=
  match e with
  | .step => s.afterStep
  | .tick => s.tickTimers
  | .keys k => s.keyIn k
  | .reset => s.hostReset
  | .load rom => (s.loadRom rom).2

/-- The state after a sequence of transitions in any interleaving (20_memory.md R60, 44_keypad_timers.md R198). -/
def runEvents (es : List Event) (s : State) : State := es.foldl (fun t e => transition e t) s

end Sys2Proof.Machine
end

