-- ==== Sys2Proof/Safety.lean ====
section
/-! DEFINITION. What claims are stated in: the ends of a run (70_reset_and_hazards.md R245), safe runs, the machine's
invariant, and the words for what an instruction leaves unchanged. -/

namespace Sys2Proof.Machine

/-! ## Ends of a run (70_reset_and_hazards.md R245) -/

/-- A fault is latched. -/
def State.faulted (s : State) : Bool := decide (s.status.code ≠ .none)

/-- PC holds a JP to its own address. -/
def State.selfLoop (s : State) : Bool :=
  decide (s.status.code = .none) && decide (s.pc.toNat ≤ 0x0FFE) && s.fetchWord == (0x1000 ||| s.pc)

/-- The run has ended: badly in a fault, or in a self-loop. -/
def State.ended (s : State) : Bool := s.faulted || s.selfLoop

/-- The state after `n` steps with no host operation between them. -/
def State.afterSteps : Nat → State → State
  | 0, s => s
  | n + 1, s => State.afterSteps n s.afterStep

/-- A safe run of `n` steps: no fault is latched at any point of it. -/
def safeRun (n : Nat) (s : State) : Prop := ∀ k, k ≤ n → (State.afterSteps k s).faulted = false

/-- Several instructions executed one after another, each by its meaning alone (no fetch between them). -/
def execAll : List Instr → State → Result
  | [], s => .next s
  | i :: is, s =>
    match exec i s with
    | .next t => execAll is t
    | .fault r => .fault r
    | .refused r => .refused r

/-! ## The invariant -/

/-- What every state the machine can be in satisfies. -/
structure Inv (s : State) : Prop where
  /-- Memory is in its canonical form, inside MEM. -/
  memCanonical : Memory.wf s.config s.mem = true
  /-- The largest value any rule writes to PC is 0x10FE (10_state.md R26). -/
  pcBound : s.pc.toNat ≤ 0x10FE
  /-- A return address is at most 0x1000 (40_control_flow.md R101, R103). -/
  stackBound : ∀ j, (h : j < 16) → (s.stack[j]).toNat ≤ 0x1000
  /-- The fields of a clear latch hold zero (10_state.md R33). -/
  clearLatch : s.status.code = .none → s.status.fpc = 0x0000 ∧ s.status.fop = 0x0000
  /-- Load errors never enter STATUS (60_exceptions.md R218). -/
  noLoadCode : s.status.code ≠ .romTooLarge ∧ s.status.code ≠ .truncatedSource
  /-- A latched fault after a fetch leaves PC 2 past the instruction (60_exceptions.md R214). -/
  faultPc : s.status.code ≠ .none → s.status.fpc.toNat ≤ 0x0FFE → s.pc = s.status.fpc + 2
  /-- A latched fetch fault leaves PC at the address it could not fetch, with no opcode (60_exceptions.md R214). -/
  fetchFaultPc : s.status.code ≠ .none → 0x0FFE < s.status.fpc.toNat →
    s.pc = s.status.fpc ∧ s.status.code = .outOfBounds ∧ s.status.fop = 0x0000

/-! ## Sprites, pixel by pixel (43_display.md R171, R173) -/

/-- Set bit `c` (from the left) of sprite byte `b` drawn from column `x0` lies on column `col`, for some c below `k`. -/
def rowCovers (b : Byte) (x0 k col : Nat) : Bool :=
  (List.range k).any (fun c => b.getLsbD (7 - c) && col == (x0 + c) % 64)

/-- The pixel (row, col) lies under a set bit of the sprite of `n` rows `sprite 0`, `sprite 1`, … drawn at column `x0`
and row `y0`, wrapping on both axes. -/
def spriteCovers (sprite : Nat → Byte) (x0 y0 n row col : Nat) : Bool :=
  (List.range n).any (fun r => row == (y0 + r) % 32 && rowCovers (sprite r) x0 8 col)

/-- Dxyn in state `s` has a set sprite bit over the pixel (row, col): the sprite bytes stand at I, the start column is
Vx mod 64, the start row Vy mod 32. -/
def State.spriteOver (s : State) (x y : RegIdx) (n : BitVec 4) (row col : Nat) : Bool :=
  spriteCovers (fun r => s.readByte (s.i.toNat + r)) ((s.getV x).toNat % 64) ((s.getV y).toNat % 32) n.toNat row col

/-! ## The register table (10_state.md R23) -/

/-- The registers V0 to Vx. -/
def regsUpTo (x : RegIdx) : List RegIdx := (List.range (x.toNat + 1)).map (BitVec.ofNat 4)

/-- The "reads" column of 10_state.md R23. -/
def tableReads : Instr → List RegIdx
  | .seKk x _ | .sneKk x _ | .addKk x _ => [x]
  | .seXy x y | .sneXy x y => [x, y]
  | .ldXy _ y => [y]
  | .or x y | .and x y | .xor x y | .addXy x y | .sub x y | .subn x y => [x, y]
  | .shr x _ | .shl x _ => [x]
  | .jpV0 _ => [0x0]
  | .drw x y _ => [x, y]
  | .skp x | .sknp x => [x]
  | .ldDtX x | .ldStX x | .addIX x | .ldFX x | .ldBX x => [x]
  | .ldMemX x => regsUpTo x
  | .sys _ | .cls | .ret | .jp _ | .call _ | .ldKk _ _ | .ldI _ | .rnd _ _ | .ldXDt _ | .ldXK _ | .ldXMem _ => []

/-- The "writes" column of 10_state.md R23. -/
def tableWrites : Instr → List RegIdx
  | .ldKk x _ | .addKk x _ | .ldXy x _ | .or x _ | .and x _ | .xor x _ | .rnd x _ | .ldXDt x | .ldXK x => [x]
  | .addXy x _ | .sub x _ | .subn x _ | .shr x _ | .shl x _ => [x, 0xF]
  | .drw _ _ _ => [0xF]
  | .ldXMem x => regsUpTo x
  | .sys _ | .cls | .ret | .jp _ | .call _ | .seKk _ _ | .sneKk _ _ | .seXy _ _ | .sneXy _ _ | .ldI _ | .jpV0 _
  | .skp _ | .sknp _ | .ldDtX _ | .ldStX _ | .addIX _ | .ldFX _ | .ldBX _ | .ldMemX _ => []

/-! ## Frames -/

/-- The parts of the state: the elements of 10_state.md R20 and the model's own two. -/
inductive Part where
  | mem | v | i | pc | sp | stack | dt | st | key | fb | status | draws | config
  deriving DecidableEq, Repr

/-- `t` holds in part `p` what `s` holds; registers and memory through their reads. -/
def State.Same (p : Part) (s t : State) : Prop :=
  match p with
  | .mem => ∀ a, t.readByte a = s.readByte a
  | .v => ∀ y, t.getV y = s.getV y
  | .i => t.i = s.i
  | .pc => t.pc = s.pc
  | .sp => t.sp = s.sp
  | .stack => t.stack = s.stack
  | .dt => t.dt = s.dt
  | .st => t.st = s.st
  | .key => t.key = s.key
  | .fb => t.fb = s.fb
  | .status => t.status = s.status
  | .draws => t.draws = s.draws
  | .config => t.config = s.config

/-- Every part but the listed ones is unchanged. -/
def Unchanged (exceptFor : List Part) (s t : State) : Prop := ∀ p, p ∉ exceptFor → State.Same p s t

/-- Every V register but the listed ones is unchanged. -/
def RegsUnchanged (exceptFor : List RegIdx) (s t : State) : Prop := ∀ y, y ∉ exceptFor → t.getV y = s.getV y

/-- Every byte of memory outside `[a, a + len)` reads as before. -/
def MemUnchangedOutside (a len : Nat) (s t : State) : Prop :=
  ∀ b, b < a ∨ a + len ≤ b → t.readByte b = s.readByte b

/-- `t` is `s` with fault `f` latched for the instruction that `s` is executing, whose word is `op`: STATUS is written
and nothing else, PC keeps the advanced value (60_exceptions.md R214). -/
def TakesFault (f : FaultCode) (op : Word) (s t : State) : Prop :=
  t.status = { code := f, fpc := s.pc - 2, fop := op } ∧ Unchanged [.status] s t

/-- A result `r` and a flag `f` have been written to Vx and VF, and nothing else has changed (41_alu.md R121). With x
other than F each register holds its own; with x = F the policy decides: `flag_last` keeps the flag, `textual` the
result. -/
def ResultAndFlagWritten (x : RegIdx) (r f : Nat) (s t : State) : Prop :=
  (x ≠ 0xF → (t.getV x).toNat = r ∧ (t.getV 0xF).toNat = f) ∧
  (x = 0xF → s.config.vfDest = .flagLast → (t.getV 0xF).toNat = f) ∧
  (x = 0xF → s.config.vfDest = .textual → (t.getV 0xF).toNat = r) ∧
  RegsUnchanged [x, 0xF] s t ∧ Unchanged [.v] s t

/-- The bytes at PC and PC + 1 are the word `w`, high byte first, and the next step fetches it: no fault is latched and
PC is at most 0xFFE. -/
def AtWord (w : Word) (s : State) : Prop :=
  s.status.code = .none ∧ s.pc.toNat ≤ 0x0FFE ∧ s.readByte s.pc.toNat = w.extractLsb' 8 8 ∧
    s.readByte (s.pc.toNat + 1) = w.extractLsb' 0 8

end Sys2Proof.Machine
end

