-- ==== Sys2Proof/Certificates/Slice0/Obligations.lean ====
section
/-! DEFINITION. The statements for the provers. Each docstring names the spec's rule or, where the statement rests on a
decision the spec marks as its own (a D<n> of 92_eei_decisions.md) or on a choice of this model (a log entry), that. -/

open Sys2Proof Sys2Proof.Machine

/-! ## Reset -/

/-- 10_state.md R38 with the font bytes of R36: every element of the state right after reset. The font bytes and address
(D5, D6), STATUS (D14) are the spec's own decisions; the model's own fields `draws` and `config` are not spoken of. -/
def Obligations.ResetStateIsTheResetTable : Prop :=
  (∀ a, State.reset.readByte a =
    (([0xF0, 0x90, 0x90, 0x90, 0xF0, 0x20, 0x60, 0x20, 0x20, 0x70, 0xF0, 0x10, 0xF0, 0x80, 0xF0, 0xF0, 0x10, 0xF0,
       0x10, 0xF0, 0x90, 0x90, 0xF0, 0x10, 0x10, 0xF0, 0x80, 0xF0, 0x10, 0xF0, 0xF0, 0x80, 0xF0, 0x90, 0xF0, 0xF0,
       0x10, 0x20, 0x40, 0x40, 0xF0, 0x90, 0xF0, 0x90, 0xF0, 0xF0, 0x90, 0xF0, 0x10, 0xF0, 0xF0, 0x90, 0xF0, 0x90,
       0x90, 0xE0, 0x90, 0xE0, 0x90, 0xE0, 0xF0, 0x80, 0x80, 0x80, 0xF0, 0xE0, 0x90, 0x90, 0x90, 0xE0, 0xF0, 0x80,
       0xF0, 0x80, 0xF0, 0xF0, 0x80, 0xF0, 0x80, 0x80] : List Byte).getD a 0x00)) ∧
  (∀ x, State.reset.getV x = 0x00) ∧ State.reset.i = 0x0000 ∧ State.reset.pc = 0x0200 ∧ State.reset.sp.val = 0 ∧
  (∀ j, (h : j < 16) → State.reset.stack[j] = 0x0000) ∧ State.reset.dt = 0x00 ∧ State.reset.st = 0x00 ∧
  (∀ k : RegIdx, keyDown State.reset.key k = false) ∧
  (∀ row col, row < 32 → col < 64 → Screen.pixel State.reset.fb row col = false) ∧
  State.reset.status = { code := .none, fpc := 0x0000, fop := 0x0000 }

/-- 70_reset_and_hazards.md R240, R241: the host's reset, from any state at all, latched faults included, for any
FONT_BASE and FONT_TABLE. STATUS is the spec's decision D14; that the parameters and the random source stay is the
model's choice (log 12). -/
def Obligations.HostResetFromAnyStateGivesTheResetTable : Prop :=
  ∀ s : State,
    (∀ a, s.hostReset.readByte a =
      if h : s.config.fontBase.val ≤ a ∧ a < s.config.fontBase.val + 80 then
        s.config.fontTable[a - s.config.fontBase.val]'(by omega)
      else 0x00) ∧
    (∀ x, s.hostReset.getV x = 0x00) ∧ s.hostReset.i = 0x0000 ∧ s.hostReset.pc = 0x0200 ∧ s.hostReset.sp.val = 0 ∧
    (∀ j, (h : j < 16) → s.hostReset.stack[j] = 0x0000) ∧ s.hostReset.dt = 0x00 ∧ s.hostReset.st = 0x00 ∧
    s.hostReset.key = 0x0000 ∧ (∀ row col, Screen.pixel s.hostReset.fb row col = false) ∧
    s.hostReset.status = { code := .none, fpc := 0x0000, fop := 0x0000 } ∧
    s.hostReset.draws = s.draws ∧ s.hostReset.config = s.config

/-! ## Fetch, decode, dispatch -/

/-- 30_encoding.md R80, all four ways a step can go: a latched fault changes nothing; a fetch past 0xFFE faults and does
not advance PC; the word at PC is decoded and its instruction executed with PC advanced by 2; a word that is no
instruction raises UnknownOpcode with PC advanced by 2. The latch is the spec's decision D14, the fetch check D26. -/
def Obligations.StepRunsTheDecodedInstruction : Prop :=
  ∀ s : State,
    (s.status.code ≠ .none → step s = .next s) ∧
    (s.status.code = .none → 0x0FFE < s.pc.toNat →
      step s = .next { s with status := { code := .outOfBounds, fpc := s.pc, fop := 0x0000 } }) ∧
    (∀ w i, AtWord w s → decodeWord w = .ok i → step s = exec i { s with pc := s.pc + 2 }) ∧
    (∀ w r, AtWord w s → decodeWord w = .error r →
      step s = .next { s with pc := s.pc + 2, status := { code := .unknownOpcode, fpc := s.pc, fop := w } })

/-- 30_encoding.md R86: the words that match no entry are exactly the five illegal spaces, by family nibble w / 4096,
low nibble w % 16 and low byte w % 256. That the fixed low digits of families 5 and 9 are matched is D3. -/
def Obligations.IllegalWordsAreTheFiveReservedSpaces : Prop :=
  ∀ w : Word, (∃ r, decodeWord w = .error r) ↔
    (w.toNat / 4096 = 0x5 ∧ w.toNat % 16 ≠ 0) ∨
    (w.toNat / 4096 = 0x8 ∧ w.toNat % 16 ∈ [0x8, 0x9, 0xA, 0xB, 0xC, 0xD, 0xF]) ∨
    (w.toNat / 4096 = 0x9 ∧ w.toNat % 16 ≠ 0) ∨
    (w.toNat / 4096 = 0xE ∧ w.toNat % 256 ∉ [0x9E, 0xA1]) ∨
    (w.toNat / 4096 = 0xF ∧ w.toNat % 256 ∉ [0x07, 0x0A, 0x15, 0x18, 0x1E, 0x29, 0x33, 0x55, 0x65])

/-- 30_encoding.md R70 to R72, R83: the decoder gives back every well-formed instruction from its two bytes, whatever
bytes follow. -/
def Obligations.DecodeOfEncodeIsTheInstruction : Prop :=
  ∀ (i : Instr) (rest : List Byte), i.wf = true → decode (encodeBytes i ++ rest) = .ok (i, rest)

/-- 30_encoding.md R83, R87: a word decodes to at most one instruction, which is well-formed and whose word it is: no bit
of a legal word is lost, SHR's and SHL's unused y field and SYS's nnn included. -/
def Obligations.EncodeOfDecodeIsTheWord : Prop :=
  ∀ (w : Word) (i : Instr), decodeWord w = .ok i → encode i = w ∧ i.wf = true

/-- A few words of 95_test_vectors.md, one of each format, decode to the instructions they stand for. -/
def Obligations.SpecWordsDecodeToTheirInstructions : Prop :=
  decode [0x00, 0xE0] = .ok (.cls, []) ∧ decode [0x00, 0xEE] = .ok (.ret, []) ∧
  decode [0x22, 0x10] = .ok (.call 0x210, []) ∧ decode [0x6A, 0x5C] = .ok (.ldKk 0xA 0x5C, []) ∧
  decode [0x81, 0xA6] = .ok (.shr 0x1 0xA, []) ∧ decode [0xD1, 0x25] = .ok (.drw 0x1 0x2 0x5, []) ∧
  decode [0xE5, 0x9E] = .ok (.skp 0x5, []) ∧ decode [0xF2, 0x65] = .ok (.ldXMem 0x2, [])

/-- Every step answers a next state: no state makes the machine stop (60_exceptions.md R212, R214, R216: a fault is
taken, D14). -/
def Obligations.EveryStepAnswersANextState : Prop := ∀ s : State, ∃ t, step s = .next t

/-! ## Control flow and stack -/

/-- 40_control_flow.md R100: SYS under either SYS_POLICY (D4; the fault entry is D14). -/
def Obligations.SysFaultsOrDoesNothing : Prop :=
  ∀ (nnn : BitVec 12) (s : State),
    (s.config.sysPolicy = .fault →
      ∃ t, exec (.sys nnn) s = .next t ∧ TakesFault .unknownOpcode (0x0#4 ++ nnn) s t) ∧
    (s.config.sysPolicy = .nop → exec (.sys nnn) s = .next s)

/-- 40_control_flow.md R101: RET pops STACK[SP - 1] into PC and leaves the slot as it was (D16), or takes
StackUnderflow when SP = 0 (D14). -/
def Obligations.RetPopsOrUnderflows : Prop :=
  decodeWord 0x00EE = .ok .ret ∧
  ∀ s : State,
    (s.sp.val = 0 → ∃ t, exec .ret s = .next t ∧ TakesFault .stackUnderflow 0x00EE s t) ∧
    (∀ j, (h : j < 16) → s.sp.val = j + 1 →
      ∃ t, exec .ret s = .next t ∧ t.sp.val = j ∧ t.pc = s.stack[j] ∧ Unchanged [.sp, .pc] s t)

/-- 40_control_flow.md R103: CALL stores PC in STACK[SP], increments SP and jumps (D16), or takes StackOverflow when
SP = 16 (D14). -/
def Obligations.CallPushesOrOverflows : Prop :=
  ∀ (nnn : BitVec 12) (s : State),
    decodeWord (0x2#4 ++ nnn) = .ok (.call nnn) ∧
    (s.sp.val = 16 → ∃ t, exec (.call nnn) s = .next t ∧ TakesFault .stackOverflow (0x2#4 ++ nnn) s t) ∧
    (s.sp.val < 16 → ∃ t, exec (.call nnn) s = .next t ∧ t.sp.val = s.sp.val + 1 ∧ t.pc.toNat = nnn.toNat ∧
      (∀ j, (h : j < 16) → t.stack[j] = if j = s.sp.val then s.pc else s.stack[j]) ∧
      Unchanged [.sp, .pc, .stack] s t)

/-- 40_control_flow.md R102 and R108: the jumps write PC, never masked, never checked, and nothing else. -/
def Obligations.JumpsWriteTheProgramCounter : Prop :=
  ∀ (nnn : BitVec 12) (s : State),
    decodeWord (0x1#4 ++ nnn) = .ok (.jp nnn) ∧ decodeWord (0xB#4 ++ nnn) = .ok (.jpV0 nnn) ∧
    (∃ t, exec (.jp nnn) s = .next t ∧ t.pc.toNat = nnn.toNat ∧ Unchanged [.pc] s t) ∧
    (∃ t, exec (.jpV0 nnn) s = .next t ∧ t.pc.toNat = nnn.toNat + (s.getV 0x0).toNat ∧ Unchanged [.pc] s t)

/-- 40_control_flow.md R104 and R105: the skips on an immediate, taken and not taken. -/
def Obligations.SkipsOnAnImmediate : Prop :=
  ∀ (x : RegIdx) (kk : Byte) (s : State),
    decodeWord (0x3#4 ++ x ++ kk) = .ok (.seKk x kk) ∧ decodeWord (0x4#4 ++ x ++ kk) = .ok (.sneKk x kk) ∧
    (∃ t, exec (.seKk x kk) s = .next t ∧ (s.getV x = kk → t.pc = s.pc + 2) ∧ (s.getV x ≠ kk → t.pc = s.pc) ∧
      Unchanged [.pc] s t) ∧
    (∃ t, exec (.sneKk x kk) s = .next t ∧ (s.getV x ≠ kk → t.pc = s.pc + 2) ∧ (s.getV x = kk → t.pc = s.pc) ∧
      Unchanged [.pc] s t)

/-- 40_control_flow.md R106 and R107: the skips on two registers, x = y included. That a nonzero low nibble is illegal is
D3 and is not said here. -/
def Obligations.SkipsOnTwoRegisters : Prop :=
  ∀ (x y : RegIdx) (s : State),
    decodeWord (0x5#4 ++ x ++ y ++ 0x0#4) = .ok (.seXy x y) ∧ decodeWord (0x9#4 ++ x ++ y ++ 0x0#4) = .ok (.sneXy x y) ∧
    (∃ t, exec (.seXy x y) s = .next t ∧ (s.getV x = s.getV y → t.pc = s.pc + 2) ∧
      (s.getV x ≠ s.getV y → t.pc = s.pc) ∧ Unchanged [.pc] s t) ∧
    (∃ t, exec (.sneXy x y) s = .next t ∧ (s.getV x ≠ s.getV y → t.pc = s.pc + 2) ∧
      (s.getV x = s.getV y → t.pc = s.pc) ∧ Unchanged [.pc] s t)

/-- 40_control_flow.md R110, round trip: a CALL and then a RET, wherever the RET stands, give back PC as it was after the
CALL's own advance, and SP. -/
def Obligations.CallThenReturnRestoresPcAndSp : Prop :=
  ∀ (nnn : BitVec 12) (s : State) (p : Word), s.sp.val < 16 →
    ∃ t u, exec (.call nnn) s = .next t ∧ exec .ret { t with pc := p } = .next u ∧ u.pc = s.pc ∧ u.sp = s.sp ∧
      Unchanged [.stack] s u

/-- 40_control_flow.md R110, depth: from an empty stack up to 16 nested calls succeed, and a 17th takes StackOverflow
with the stack full. (The fault entry is D14.) -/
def Obligations.SixteenCallsSucceedAndTheSeventeenthOverflows : Prop :=
  ∀ (targets : List (BitVec 12)) (s : State), s.sp.val = 0 → s.status.code = .none →
    (targets.length ≤ 16 →
      ∃ t, execAll (targets.map Instr.call) s = .next t ∧ t.sp.val = targets.length ∧ t.status = s.status) ∧
    (targets.length = 17 →
      ∃ t, execAll (targets.map Instr.call) s = .next t ∧ t.sp.val = 16 ∧ t.status.code = .stackOverflow)

/-! ## ALU -/

/-- 41_alu.md R122 to R124: load immediate, add immediate with no flag, copy; x = F included, VF then being an ordinary
destination. -/
def Obligations.LoadAddImmediateAndMove : Prop :=
  ∀ (x y : RegIdx) (kk : Byte) (s : State),
    decodeWord (0x6#4 ++ x ++ kk) = .ok (.ldKk x kk) ∧ decodeWord (0x7#4 ++ x ++ kk) = .ok (.addKk x kk) ∧
    decodeWord (0x8#4 ++ x ++ y ++ 0x0#4) = .ok (.ldXy x y) ∧
    (∃ t, exec (.ldKk x kk) s = .next t ∧ t.getV x = kk ∧ RegsUnchanged [x] s t ∧ Unchanged [.v] s t) ∧
    (∃ t, exec (.addKk x kk) s = .next t ∧ (t.getV x).toNat = ((s.getV x).toNat + kk.toNat) % 256 ∧
      RegsUnchanged [x] s t ∧ Unchanged [.v] s t) ∧
    (∃ t, exec (.ldXy x y) s = .next t ∧ t.getV x = s.getV y ∧ RegsUnchanged [x] s t ∧ Unchanged [.v] s t)

/-- 41_alu.md R125 to R127, bit by bit; that VF is not reset is the spec's decision D30. -/
def Obligations.LogicWorksBitByBitAndKeepsVf : Prop :=
  ∀ (x y : RegIdx) (s : State),
    decodeWord (0x8#4 ++ x ++ y ++ 0x1#4) = .ok (.or x y) ∧ decodeWord (0x8#4 ++ x ++ y ++ 0x2#4) = .ok (.and x y) ∧
    decodeWord (0x8#4 ++ x ++ y ++ 0x3#4) = .ok (.xor x y) ∧
    (∃ t, exec (.or x y) s = .next t ∧ RegsUnchanged [x] s t ∧ Unchanged [.v] s t ∧
      ∀ b, (t.getV x).getLsbD b = ((s.getV x).getLsbD b || (s.getV y).getLsbD b)) ∧
    (∃ t, exec (.and x y) s = .next t ∧ RegsUnchanged [x] s t ∧ Unchanged [.v] s t ∧
      ∀ b, (t.getV x).getLsbD b = ((s.getV x).getLsbD b && (s.getV y).getLsbD b)) ∧
    (∃ t, exec (.xor x y) s = .next t ∧ RegsUnchanged [x] s t ∧ Unchanged [.v] s t ∧
      ∀ b, (t.getV x).getLsbD b = ((s.getV x).getLsbD b ^^ (s.getV y).getLsbD b))

/-- 41_alu.md R128: the sum modulo 256 in Vx and the carry in VF; VF is always written and, with x = F, ends holding the
carry under both policies; with y = F the old VF is the addend. -/
def Obligations.AddGivesTheSumAndTheCarry : Prop :=
  ∀ (x y : RegIdx) (s : State),
    decodeWord (0x8#4 ++ x ++ y ++ 0x4#4) = .ok (.addXy x y) ∧
    ∃ t, exec (.addXy x y) s = .next t ∧
      (x ≠ 0xF → (t.getV x).toNat = ((s.getV x).toNat + (s.getV y).toNat) % 256) ∧
      (t.getV 0xF).toNat = (if (s.getV x).toNat + (s.getV y).toNat > 255 then 1 else 0) ∧
      RegsUnchanged [x, 0xF] s t ∧ Unchanged [.v] s t

/-- 41_alu.md R129 and R131 (with R121): the differences modulo 256 and the no-borrow flags, under both policies. -/
def Obligations.SubtractionsGiveTheDifferenceAndNoBorrow : Prop :=
  ∀ (x y : RegIdx) (s : State),
    decodeWord (0x8#4 ++ x ++ y ++ 0x5#4) = .ok (.sub x y) ∧ decodeWord (0x8#4 ++ x ++ y ++ 0x7#4) = .ok (.subn x y) ∧
    (∃ t, exec (.sub x y) s = .next t ∧
      ResultAndFlagWritten x (((s.getV x).toNat + (256 - (s.getV y).toNat)) % 256)
        (if (s.getV x).toNat ≥ (s.getV y).toNat then 1 else 0) s t) ∧
    (∃ t, exec (.subn x y) s = .next t ∧
      ResultAndFlagWritten x (((s.getV y).toNat + (256 - (s.getV x).toNat)) % 256)
        (if (s.getV y).toNat ≥ (s.getV x).toNat then 1 else 0) s t)

/-- 41_alu.md R130 and R132 (with R121): the shifts of Vx by one and the bit shifted out, under both policies, for every
y, which is not read. -/
def Obligations.ShiftsGiveTheShiftedBitInVf : Prop :=
  ∀ (x y : RegIdx) (s : State),
    decodeWord (0x8#4 ++ x ++ y ++ 0x6#4) = .ok (.shr x y) ∧ decodeWord (0x8#4 ++ x ++ y ++ 0xE#4) = .ok (.shl x y) ∧
    (∃ t, exec (.shr x y) s = .next t ∧
      ResultAndFlagWritten x ((s.getV x).toNat / 2) ((s.getV x).toNat % 2) s t) ∧
    (∃ t, exec (.shl x y) s = .next t ∧
      ResultAndFlagWritten x ((s.getV x).toNat * 2 % 256) ((s.getV x).toNat / 128) s t)

/-- 41_alu.md R121: with x other than F the two policies give the same state, and they differ for nothing but 8Fy5, 8Fy6,
8Fy7 and 8FyE (D2). -/
def Obligations.PolicyMattersOnlyWhenVfIsTheDestination : Prop :=
  ∀ (i : Instr) (s t : State) (p : VfDestPolicy),
    (∀ y, i ≠ .sub 0xF y ∧ i ≠ .shr 0xF y ∧ i ≠ .subn 0xF y ∧ i ≠ .shl 0xF y) → exec i s = .next t →
    exec i { s with config := { s.config with vfDest := p } } = .next { t with config := { t.config with vfDest := p } }

/-- 41_alu.md R133: Vx takes the draw masked with kk, and each execution takes one fresh draw. The draw is a free value
(D22, log 3): nothing is said of it but that kk = 0 hides it and kk = 0xFF gives it unchanged. -/
def Obligations.RandomTakesOneMaskedDraw : Prop :=
  ∀ (x : RegIdx) (kk : Byte) (s : State),
    decodeWord (0xC#4 ++ x ++ kk) = .ok (.rnd x kk) ∧
    ∃ t, exec (.rnd x kk) s = .next t ∧
      (∀ b, (t.getV x).getLsbD b = ((Config.rand s.draws).getLsbD b && kk.getLsbD b)) ∧
      (kk = 0x00 → t.getV x = 0x00) ∧ (kk = 0xFF → t.getV x = Config.rand s.draws) ∧
      t.draws = s.draws + 1 ∧ RegsUnchanged [x] s t ∧ Unchanged [.v, .draws] s t

/-- 10_state.md R22: VF changes only by the six instructions that write it as a side effect, or by one that names it as
its destination. -/
def Obligations.VfIsWrittenOnlyByItsWriters : Prop :=
  ∀ (i : Instr) (s t : State), exec i s = .next t → t.getV 0xF ≠ s.getV 0xF →
    (∃ x y, i = .addXy x y ∨ i = .sub x y ∨ i = .shr x y ∨ i = .subn x y ∨ i = .shl x y) ∨
    (∃ x y n, i = .drw x y n) ∨
    (∃ kk, i = .ldKk 0xF kk ∨ i = .addKk 0xF kk ∨ i = .rnd 0xF kk) ∨
    (∃ y, i = .ldXy 0xF y ∨ i = .or 0xF y ∨ i = .and 0xF y ∨ i = .xor 0xF y) ∨
    i = .ldXDt 0xF ∨ i = .ldXK 0xF ∨ i = .ldXMem 0xF

/-- 10_state.md R23, the writes column: an instruction changes no V register but those the table gives it. -/
def Obligations.OnlyTheTableRegistersAreWritten : Prop :=
  ∀ (i : Instr) (s t : State), exec i s = .next t → RegsUnchanged (tableWrites i) s t

/-- 10_state.md R23, the reads column: what an instruction does depends on no V register but those the table gives it;
another value in any other register changes nothing else of the outcome. -/
def Obligations.OnlyTheTableRegistersAreRead : Prop :=
  ∀ (i : Instr) (s : State) (y : RegIdx) (b : Byte), y ∉ tableReads i →
    ∃ t t', exec i s = .next t ∧ exec i (s.setV y b) = .next t' ∧ Unchanged [.v] t t' ∧ RegsUnchanged [y] t t'

/-! ## Index register and memory -/

/-- 42_index_memory.md R150: LD I, nnn. -/
def Obligations.LoadIndexImmediate : Prop :=
  ∀ (nnn : BitVec 12) (s : State),
    decodeWord (0xA#4 ++ nnn) = .ok (.ldI nnn) ∧
    ∃ t, exec (.ldI nnn) s = .next t ∧ t.i.toNat = nnn.toNat ∧ t.i.toNat ≤ 0x0FFF ∧ Unchanged [.i] s t

/-- 42_index_memory.md R151 and R152: ADD I, Vx modulo 2^16 with VF unchanged (D10), LD F, Vx with Vx not masked (D11),
for any FONT_BASE (D5). -/
def Obligations.AddToIndexAndPointAtGlyph : Prop :=
  ∀ (x : RegIdx) (s : State),
    decodeWord (0xF#4 ++ x ++ 0x1E#8) = .ok (.addIX x) ∧ decodeWord (0xF#4 ++ x ++ 0x29#8) = .ok (.ldFX x) ∧
    (∃ t, exec (.addIX x) s = .next t ∧ t.i.toNat = (s.i.toNat + (s.getV x).toNat) % 65536 ∧ Unchanged [.i] s t) ∧
    (∃ t, exec (.ldFX x) s = .next t ∧ t.i.toNat = s.config.fontBase.val + 5 * (s.getV x).toNat ∧ Unchanged [.i] s t)

/-- 42_index_memory.md R153: LD B, Vx stores the three decimal digits at I, or takes OutOfBounds with nothing stored (the
check before the first access is D13, the fault entry D14). -/
def Obligations.StoreBcdOrFault : Prop :=
  ∀ (x : RegIdx) (s : State),
    decodeWord (0xF#4 ++ x ++ 0x33#8) = .ok (.ldBX x) ∧
    (s.i.toNat + 3 ≤ 4096 →
      ∃ t, exec (.ldBX x) s = .next t ∧
        (t.readByte s.i.toNat).toNat = (s.getV x).toNat / 100 ∧
        (t.readByte (s.i.toNat + 1)).toNat = (s.getV x).toNat / 10 % 10 ∧
        (t.readByte (s.i.toNat + 2)).toNat = (s.getV x).toNat % 10 ∧
        (t.readByte s.i.toNat).toNat ≤ 2 ∧
        MemUnchangedOutside s.i.toNat 3 s t ∧ Unchanged [.mem] s t) ∧
    (4096 < s.i.toNat + 3 →
      ∃ t, exec (.ldBX x) s = .next t ∧ TakesFault .outOfBounds (0xF#4 ++ x ++ 0x33#8) s t)

/-- 42_index_memory.md R154: LD [I], Vx stores V0 to Vx at I and leaves I (D9), or takes OutOfBounds with nothing stored
(D13, D14). -/
def Obligations.StoreRegistersOrFault : Prop :=
  ∀ (x : RegIdx) (s : State),
    decodeWord (0xF#4 ++ x ++ 0x55#8) = .ok (.ldMemX x) ∧
    (s.i.toNat + x.toNat + 1 ≤ 4096 →
      ∃ t, exec (.ldMemX x) s = .next t ∧
        (∀ y : RegIdx, y.toNat ≤ x.toNat → t.readByte (s.i.toNat + y.toNat) = s.getV y) ∧
        MemUnchangedOutside s.i.toNat (x.toNat + 1) s t ∧ Unchanged [.mem] s t) ∧
    (4096 < s.i.toNat + x.toNat + 1 →
      ∃ t, exec (.ldMemX x) s = .next t ∧ TakesFault .outOfBounds (0xF#4 ++ x ++ 0x55#8) s t)

/-- 42_index_memory.md R155: LD Vx, [I] loads V0 to Vx from I and leaves I (D9), VF an ordinary destination when x = F,
or takes OutOfBounds with nothing loaded (D13, D14). -/
def Obligations.LoadRegistersOrFault : Prop :=
  ∀ (x : RegIdx) (s : State),
    decodeWord (0xF#4 ++ x ++ 0x65#8) = .ok (.ldXMem x) ∧
    (s.i.toNat + x.toNat + 1 ≤ 4096 →
      ∃ t, exec (.ldXMem x) s = .next t ∧
        (∀ y : RegIdx, y.toNat ≤ x.toNat → t.getV y = s.readByte (s.i.toNat + y.toNat)) ∧
        (∀ y : RegIdx, x.toNat < y.toNat → t.getV y = s.getV y) ∧ Unchanged [.v] s t) ∧
    (4096 < s.i.toNat + x.toNat + 1 →
      ∃ t, exec (.ldXMem x) s = .next t ∧ TakesFault .outOfBounds (0xF#4 ++ x ++ 0x65#8) s t)

/-- 20_memory.md R62, 70_reset_and_hazards.md R248: a store to the next instruction's bytes is what the next step
fetches. -/
def Obligations.StoredWordIsFetchedNext : Prop :=
  ∀ (x : RegIdx) (s : State), 1 ≤ x.toNat → s.i = s.pc → s.pc.toNat + x.toNat + 1 ≤ 4096 → s.status.code = .none →
    ∃ t, exec (.ldMemX x) s = .next t ∧ AtWord (s.getV 0x0 ++ s.getV 0x1) t

/-- 10_state.md R24: only Annn, Fx1E and Fx29 write I, and what the instructions other than Dxyn, Fx1E, Fx33, Fx55 and
Fx65 do does not depend on I. -/
def Obligations.IndexRegisterHasItsReadersAndWriters : Prop :=
  (∀ (i : Instr) (s t : State), exec i s = .next t → t.i ≠ s.i →
    (∃ nnn, i = .ldI nnn) ∨ (∃ x, i = .addIX x ∨ i = .ldFX x)) ∧
  (∀ (i : Instr) (s : State) (a : Word),
    (∀ x y n, i ≠ .drw x y n ∧ i ≠ .addIX x ∧ i ≠ .ldBX x ∧ i ≠ .ldMemX x ∧ i ≠ .ldXMem x) →
    ∃ t t', exec i s = .next t ∧ exec i (s.setI a) = .next t' ∧ Unchanged [.i] t t')

/-! ## Display -/

/-- 43_display.md R170: CLS turns every pixel off and writes nothing else, VF included. -/
def Obligations.ClearTurnsEveryPixelOff : Prop :=
  decodeWord 0x00E0 = .ok .cls ∧
  ∀ s : State, ∃ t, exec .cls s = .next t ∧ (∀ row col, Screen.pixel t.fb row col = false) ∧ Unchanged [.fb] s t

/-- 43_display.md R171 and R173: DRW toggles exactly the pixels under the sprite's set bits, wrapping on both axes, and
VF reports whether one of them was on; or takes OutOfBounds with nothing drawn. Bit 7 being the leftmost pixel is D7,
n = 0 is D25, the check first D13, the fault entry D14. -/
def Obligations.DrawTogglesTheSpriteAndReportsCollision : Prop :=
  ∀ (x y : RegIdx) (n : BitVec 4) (s : State),
    decodeWord (0xD#4 ++ x ++ y ++ n) = .ok (.drw x y n) ∧
    (s.i.toNat + n.toNat ≤ 4096 →
      ∃ t, exec (.drw x y n) s = .next t ∧
        (∀ row col, Screen.pixel t.fb row col = (Screen.pixel s.fb row col ^^ s.spriteOver x y n row col)) ∧
        ((∃ row col, row < 32 ∧ col < 64 ∧ s.spriteOver x y n row col = true ∧ Screen.pixel s.fb row col = true) →
          t.getV 0xF = 0x01) ∧
        ((∀ row col, row < 32 → col < 64 → s.spriteOver x y n row col = true → Screen.pixel s.fb row col = false) →
          t.getV 0xF = 0x00) ∧
        RegsUnchanged [0xF] s t ∧ Unchanged [.v, .fb] s t) ∧
    (4096 < s.i.toNat + n.toNat →
      ∃ t, exec (.drw x y n) s = .next t ∧ TakesFault .outOfBounds (0xD#4 ++ x ++ y ++ n) s t)

/-- 43_display.md R174: the same sprite drawn a second time at the same place (by registers that hold the same column
and row) restores the framebuffer exactly. By R171 and R173 the second draw's VF is 1 exactly when some pixel under the
sprite was off before the first draw; from a screen that is off, that is R174's own condition, a set bit in the sprite
(95_test_vectors.md S4; the reading of R174 is log 22). -/
def Obligations.DrawingTwiceRestoresTheFramebuffer : Prop :=
  ∀ (x y x' y' : RegIdx) (n : BitVec 4) (s t : State), s.i.toNat + n.toNat ≤ 4096 → exec (.drw x y n) s = .next t →
    t.getV x' = s.getV x → t.getV y' = s.getV y →
    ∃ u, exec (.drw x' y' n) t = .next u ∧ u.fb = s.fb ∧
      ((∃ row col, s.spriteOver x y n row col = true ∧ Screen.pixel s.fb row col = false) → u.getV 0xF = 0x01) ∧
      ((∀ row col, s.spriteOver x y n row col = true → Screen.pixel s.fb row col = true) → u.getV 0xF = 0x00) ∧
      ((∀ row col, Screen.pixel s.fb row col = false) →
        (∃ r, r < n.toNat ∧ s.readByte (s.i.toNat + r) ≠ 0x00) → u.getV 0xF = 0x01) ∧
      ((∀ r, r < n.toNat → s.readByte (s.i.toNat + r) = 0x00) → u.getV 0xF = 0x00)

/-- 10_state.md R32: only 00E0 and Dxyn write the framebuffer, and what the other instructions do does not depend on
it. -/
def Obligations.FramebufferHasItsReadersAndWriters : Prop :=
  (∀ (i : Instr) (s t : State), exec i s = .next t → t.fb ≠ s.fb → i = .cls ∨ ∃ x y n, i = .drw x y n) ∧
  (∀ (i : Instr) (s : State) (f : Screen), (∀ x y n, i ≠ .drw x y n) →
    ∃ t t', exec i s = .next t ∧ exec i (s.setFb f) = .next t' ∧ Unchanged [.fb] t t')

/-- 10_state.md R30, R37, 43_display.md R172: the outputs. The bit order of `fb_out` is D7; `step_result` as a function
of the state the step ends in is the model's choice (log 5). -/
def Obligations.OutputsShowTheState : Prop :=
  ∀ s : State,
    (∀ row col, row < 32 → col < 64 → s.fbOut.getLsbD (row * 64 + col) = Screen.pixel s.fb row col) ∧
    (s.soundOn = true ↔ s.st.toNat ≠ 0) ∧
    (s.status.code = .none → s.stepResult = .ok) ∧
    (∀ f, f ≠ .none → s.status.code = f → s.stepResult = .fault f)

/-! ## Keypad and timers -/

/-- 44_keypad_timers.md R190 and R191: the skips on a key, for a register of at most 0xF; OutOfBounds above that (D12,
D14). -/
def Obligations.SkipsOnAKeyOrFault : Prop :=
  ∀ (x : RegIdx) (s : State),
    decodeWord (0xE#4 ++ x ++ 0x9E#8) = .ok (.skp x) ∧ decodeWord (0xE#4 ++ x ++ 0xA1#8) = .ok (.sknp x) ∧
    ((s.getV x).toNat ≤ 0xF →
      (∃ t, exec (.skp x) s = .next t ∧ (s.key.getLsbD (s.getV x).toNat = true → t.pc = s.pc + 2) ∧
        (s.key.getLsbD (s.getV x).toNat = false → t.pc = s.pc) ∧ Unchanged [.pc] s t) ∧
      (∃ t, exec (.sknp x) s = .next t ∧ (s.key.getLsbD (s.getV x).toNat = false → t.pc = s.pc + 2) ∧
        (s.key.getLsbD (s.getV x).toNat = true → t.pc = s.pc) ∧ Unchanged [.pc] s t)) ∧
    (0xF < (s.getV x).toNat →
      (∃ t, exec (.skp x) s = .next t ∧ TakesFault .outOfBounds (0xE#4 ++ x ++ 0x9E#8) s t) ∧
      (∃ t, exec (.sknp x) s = .next t ∧ TakesFault .outOfBounds (0xE#4 ++ x ++ 0xA1#8) s t))

/-- 44_keypad_timers.md R192, R194 and R195: the three moves between Vx and the timers. -/
def Obligations.TimersAreReadAndSet : Prop :=
  ∀ (x : RegIdx) (s : State),
    decodeWord (0xF#4 ++ x ++ 0x07#8) = .ok (.ldXDt x) ∧ decodeWord (0xF#4 ++ x ++ 0x15#8) = .ok (.ldDtX x) ∧
    decodeWord (0xF#4 ++ x ++ 0x18#8) = .ok (.ldStX x) ∧
    (∃ t, exec (.ldXDt x) s = .next t ∧ t.getV x = s.dt ∧ RegsUnchanged [x] s t ∧ Unchanged [.v] s t) ∧
    (∃ t, exec (.ldDtX x) s = .next t ∧ t.dt = s.getV x ∧ Unchanged [.dt] s t) ∧
    (∃ t, exec (.ldStX x) s = .next t ∧ t.st = s.getV x ∧ (t.soundOn = true ↔ (s.getV x).toNat ≠ 0) ∧
      (s.getV x = 0x01 → t.tickTimers.soundOn = false) ∧ Unchanged [.st] s t)

/-- 44_keypad_timers.md R193: with no key pressed PC goes back by 2 and nothing else changes; else Vx takes a pressed
key, the lowest one under the default KEY_SELECT (D8; another rule is the free value of log 4). -/
def Obligations.WaitForKeyTakesAPressedKey : Prop :=
  ∀ (x : RegIdx) (s : State),
    decodeWord (0xF#4 ++ x ++ 0x0A#8) = .ok (.ldXK x) ∧
    (s.key = 0x0000 → ∃ t, exec (.ldXK x) s = .next t ∧ t.pc = s.pc - 2 ∧ Unchanged [.pc] s t) ∧
    (s.key ≠ 0x0000 →
      ∃ t, exec (.ldXK x) s = .next t ∧ (t.getV x).toNat ≤ 0xF ∧ s.key.getLsbD (t.getV x).toNat = true ∧
        (s.config.keySelect = .lowest → ∀ k, k < (t.getV x).toNat → s.key.getLsbD k = false) ∧
        RegsUnchanged [x] s t ∧ Unchanged [.v] s t)

/-- 44_keypad_timers.md R193, "Step is idempotent until condition holds": a step that waits for a key leaves the whole
state unchanged. -/
def Obligations.WaitingStepChangesNothing : Prop :=
  ∀ (x : RegIdx) (s : State), AtWord (0xF#4 ++ x ++ 0x0A#8) s → s.key = 0x0000 → step s = .next s

/-- 44_keypad_timers.md R196 and R197: the host's tick and key operations, latched fault or not (D20, D21). -/
def Obligations.TickAndKeyInChangeOnlyTheirOwn : Prop :=
  ∀ (s : State) (keys : Word),
    s.tickTimers.dt.toNat = s.dt.toNat - 1 ∧ s.tickTimers.st.toNat = s.st.toNat - 1 ∧
    Unchanged [.dt, .st] s s.tickTimers ∧ (s.keyIn keys).key = keys ∧ Unchanged [.key] s (s.keyIn keys)

/-- 10_state.md R29 and R30: only Fx15 writes DT and only Fx18 writes ST among the instructions, only Fx07 depends on DT,
none on ST. -/
def Obligations.TimersHaveTheirReadersAndWriters : Prop :=
  (∀ (i : Instr) (s t : State), exec i s = .next t → t.dt ≠ s.dt → ∃ x, i = .ldDtX x) ∧
  (∀ (i : Instr) (s t : State), exec i s = .next t → t.st ≠ s.st → ∃ x, i = .ldStX x) ∧
  (∀ (i : Instr) (s : State) (b : Byte), (∀ x, i ≠ .ldXDt x) →
    ∃ t t', exec i s = .next t ∧ exec i (s.setDt b) = .next t' ∧ Unchanged [.dt] t t') ∧
  (∀ (i : Instr) (s : State) (b : Byte),
    ∃ t t', exec i s = .next t ∧ exec i (s.setSt b) = .next t' ∧ Unchanged [.st] t t')

/-- 10_state.md R31: no instruction writes KEY, and what the instructions other than Ex9E, ExA1 and Fx0A do does not
depend on it. -/
def Obligations.KeysAreReadByThreeInstructions : Prop :=
  (∀ (i : Instr) (s t : State), exec i s = .next t → t.key = s.key) ∧
  (∀ (i : Instr) (s : State) (keys : Word), (∀ x, i ≠ .skp x ∧ i ≠ .sknp x ∧ i ≠ .ldXK x) →
    ∃ t t', exec i s = .next t ∧ exec i (s.keyIn keys) = .next t' ∧ Unchanged [.key] t t')

/-! ## Whole-machine rules -/

/-- 10_state.md R27 and R28: entry j of STACK is written only by CALL when SP = j, and SP changes only by CALL and RET
(D16). -/
def Obligations.StackIsWrittenOnlyByCall : Prop :=
  ∀ (i : Instr) (s t : State), exec i s = .next t →
    (∀ j, (h : j < 16) → t.stack[j] ≠ s.stack[j] → s.sp.val = j ∧ ∃ nnn, i = .call nnn) ∧
    (t.sp ≠ s.sp → i = .ret ∨ ∃ nnn, i = .call nnn)

/-- 20_memory.md R52: only Fx33 and Fx55 write memory, and only the bytes from I that they store to. -/
def Obligations.MemoryIsWrittenOnlyByTheTwoStores : Prop :=
  ∀ (i : Instr) (s t : State) (a : Nat), exec i s = .next t → t.readByte a ≠ s.readByte a →
    (∃ x, i = .ldBX x ∧ s.i.toNat ≤ a ∧ a < s.i.toNat + 3) ∨
    (∃ x : RegIdx, i = .ldMemX x ∧ s.i.toNat ≤ a ∧ a < s.i.toNat + x.toNat + 1)

/-- 60_exceptions.md R211 (the latch is D14): which instruction raises which fault, and exactly when. Nothing else does:
no instruction ever gives the two load faults. -/
def Obligations.FaultsHaveExactlyTheirCauses : Prop :=
  ∀ (i : Instr) (s t : State), exec i s = .next t → s.status.code = .none →
    (t.status.code = .unknownOpcode ↔ s.config.sysPolicy = .fault ∧ ∃ nnn, i = .sys nnn) ∧
    (t.status.code = .stackOverflow ↔ s.sp.val = 16 ∧ ∃ nnn, i = .call nnn) ∧
    (t.status.code = .stackUnderflow ↔ s.sp.val = 0 ∧ i = .ret) ∧
    (t.status.code = .outOfBounds ↔
      (∃ x y n, i = .drw x y n ∧ 4096 < s.i.toNat + n.toNat) ∨
      (∃ x, (i = .skp x ∨ i = .sknp x) ∧ 0xF < (s.getV x).toNat) ∨
      (∃ x, i = .ldBX x ∧ 4096 < s.i.toNat + 3) ∨
      (∃ x, (i = .ldMemX x ∨ i = .ldXMem x) ∧ 4096 < s.i.toNat + x.toNat + 1)) ∧
    t.status.code ≠ .romTooLarge ∧ t.status.code ≠ .truncatedSource

/-- 60_exceptions.md R214 (D14): a step that takes a fault names the instruction that faulted, its address and its word;
the fetch fault leaves PC, every other fault leaves PC at that address plus 2; nothing else of the state changes. -/
def Obligations.AFaultingStepWritesOnlyStatusAndPc : Prop :=
  ∀ s t : State, s.status.code = .none → step s = .next t → t.status.code ≠ .none →
    t.status.fpc = s.pc ∧ Unchanged [.status, .pc] s t ∧
    (0x0FFE < s.pc.toNat → t.status.code = .outOfBounds ∧ t.status.fop = 0x0000 ∧ t.pc = s.pc) ∧
    (s.pc.toNat ≤ 0x0FFE → t.pc = s.pc + 2 ∧ t.status.fop = s.readByte s.pc.toNat ++ s.readByte (s.pc.toNat + 1))

/-- 60_exceptions.md R216 (D14): a latched fault survives every transition but reset; a step then changes nothing and
reports the fault; the host's other operations keep working; reset clears it. -/
def Obligations.ALatchedFaultStaysUntilReset : Prop :=
  ∀ s : State, s.status.code ≠ .none →
    (∀ e, e ≠ .reset → (transition e s).status = s.status) ∧
    transition .step s = s ∧ (transition .step s).stepResult = .fault s.status.code ∧
    (transition .reset s).status.code = .none

/-- 70_reset_and_hazards.md R245 (D29): an ended run stays where it is. -/
def Obligations.AnEndedRunStaysEnded : Prop :=
  ∀ s : State, s.ended = true → step s = .next s

/-- 00_scope.md R6: no transition of either agent changes a parameter (the model's reading of "named parameters",
log 1). -/
def Obligations.ParametersNeverChange : Prop :=
  ∀ (es : List Event) (s : State), (runEvents es s).config = s.config

/-! ## Loading -/

/-- 70_reset_and_hazards.md R242 (D19 for loads during a run): a ROM of at most 3584 bytes is copied verbatim to 0x200
and up and nothing else changes; a longer one is refused with RomTooLarge and nothing changes. -/
def Obligations.LoadRomIsAllOrNothing : Prop :=
  ∀ (s : State) (rom : List Byte),
    (rom.length ≤ 3584 →
      (s.loadRom rom).1 = .ok ∧
      (∀ k, (h : k < rom.length) → (s.loadRom rom).2.readByte (0x200 + k) = rom[k]) ∧
      MemUnchangedOutside 0x200 rom.length s (s.loadRom rom).2 ∧ Unchanged [.mem] s (s.loadRom rom).2) ∧
    (3584 < rom.length → s.loadRom rom = (.fault .romTooLarge, s))

/-- 70_reset_and_hazards.md R243, 60_exceptions.md R218: when the source runs out the loader reports TruncatedSource and
nothing changes; else it loads what was asked for. How the loader is asked is the model's choice (log 19). -/
def Obligations.ATruncatedSourceLoadsNothing : Prop :=
  ∀ (s : State) (len : Nat) (source : List Byte),
    (source.length < len → s.loadFrom len source = (.fault .truncatedSource, s)) ∧
    (len ≤ source.length → s.loadFrom len source = s.loadRom (source.take len))

/-! ## The invariant -/

/-- The reset state meets the invariant. -/
def Obligations.ResetMeetsTheInvariant : Prop := Inv State.reset

/-- Every step keeps the invariant: memory stays canonical and inside its 4096 bytes, PC stays at or below 0x10FE
(10_state.md R26), return addresses at or below 0x1000 (40_control_flow.md R101), a clear latch holds zeros, load errors
never enter STATUS (60_exceptions.md R218), a latched fault keeps PC in its place (60_exceptions.md R214, D14). -/
def Obligations.EveryStepKeepsTheInvariant : Prop :=
  ∀ s t : State, Inv s → step s = .next t → Inv t

/-- Any sequence of steps and host operations, in any interleaving (20_memory.md R60, 44_keypad_timers.md R198), keeps
the invariant. -/
def Obligations.EveryRunKeepsTheInvariant : Prop :=
  ∀ (es : List Event) (s : State), Inv s → Inv (runEvents es s)
end

