-- ==== Sys2Proof/Laws/Decode.lean ====
section
/-! SUPPORT. The fields of the three word forms, the bytes of a word, and which words the five illegal families are
(30_encoding.md R71, R72, R86). -/

namespace Sys2Proof

/-! ## Fields of a word built from fields -/

@[simp] theorem fieldKind_wordNnn (k : BitVec 4) (a : BitVec 12) : fieldKind (wordNnn k a) = k := by
  unfold fieldKind wordNnn
  rw [BitVec.extractLsb'_append_eq_of_le (by omega)]
  exact BitVec.extractLsb'_eq_self

@[simp] theorem fieldNnn_wordNnn (k : BitVec 4) (a : BitVec 12) : fieldNnn (wordNnn k a) = a := by
  show BitVec.extractLsb' 0 12 (k ++ a) = a
  apply BitVec.eq_of_getLsbD_eq
  intro i h
  simp only [BitVec.getLsbD_extractLsb', BitVec.getLsbD_append]
  simp only [h, decide_true, Bool.true_and]
  repeat' split
  all_goals first | omega | (congr 1; omega)

@[simp] theorem fieldKind_wordXkk (k x : BitVec 4) (b : Byte) : fieldKind (wordXkk k x b) = k := by
  show BitVec.extractLsb' 12 4 (k ++ x ++ b) = k
  apply BitVec.eq_of_getLsbD_eq
  intro i h
  simp only [BitVec.getLsbD_extractLsb', BitVec.getLsbD_append]
  simp only [h, decide_true, Bool.true_and]
  repeat' split
  all_goals first | omega | (congr 1; omega)

@[simp] theorem fieldX_wordXkk (k x : BitVec 4) (b : Byte) : fieldX (wordXkk k x b) = x := by
  show BitVec.extractLsb' 8 4 (k ++ x ++ b) = x
  apply BitVec.eq_of_getLsbD_eq
  intro i h
  simp only [BitVec.getLsbD_extractLsb', BitVec.getLsbD_append]
  simp only [h, decide_true, Bool.true_and]
  repeat' split
  all_goals first | omega | (congr 1; omega)

@[simp] theorem fieldKk_wordXkk (k x : BitVec 4) (b : Byte) : fieldKk (wordXkk k x b) = b := by
  show BitVec.extractLsb' 0 8 (k ++ x ++ b) = b
  apply BitVec.eq_of_getLsbD_eq
  intro i h
  simp only [BitVec.getLsbD_extractLsb', BitVec.getLsbD_append]
  simp only [h, decide_true, Bool.true_and]
  repeat' split
  all_goals first | omega | (congr 1; omega)

@[simp] theorem fieldKind_wordXyn (k x y n : BitVec 4) : fieldKind (wordXyn k x y n) = k := by
  show BitVec.extractLsb' 12 4 (k ++ x ++ y ++ n) = k
  apply BitVec.eq_of_getLsbD_eq
  intro i h
  simp only [BitVec.getLsbD_extractLsb', BitVec.getLsbD_append]
  simp only [h, decide_true, Bool.true_and]
  repeat' split
  all_goals first | omega | (congr 1; omega)

@[simp] theorem fieldX_wordXyn (k x y n : BitVec 4) : fieldX (wordXyn k x y n) = x := by
  show BitVec.extractLsb' 8 4 (k ++ x ++ y ++ n) = x
  apply BitVec.eq_of_getLsbD_eq
  intro i h
  simp only [BitVec.getLsbD_extractLsb', BitVec.getLsbD_append]
  simp only [h, decide_true, Bool.true_and]
  repeat' split
  all_goals first | omega | (congr 1; omega)

@[simp] theorem fieldY_wordXyn (k x y n : BitVec 4) : fieldY (wordXyn k x y n) = y := by
  show BitVec.extractLsb' 4 4 (k ++ x ++ y ++ n) = y
  apply BitVec.eq_of_getLsbD_eq
  intro i h
  simp only [BitVec.getLsbD_extractLsb', BitVec.getLsbD_append]
  simp only [h, decide_true, Bool.true_and]
  repeat' split
  all_goals first | omega | (congr 1; omega)

@[simp] theorem fieldN_wordXyn (k x y n : BitVec 4) : fieldN (wordXyn k x y n) = n := by
  show BitVec.extractLsb' 0 4 (k ++ x ++ y ++ n) = n
  apply BitVec.eq_of_getLsbD_eq
  intro i h
  simp only [BitVec.getLsbD_extractLsb', BitVec.getLsbD_append]
  simp only [h, decide_true, Bool.true_and]
  repeat' split
  all_goals first | omega | (congr 1; omega)

/-! ## A word rebuilt from its fields -/

theorem wordNnn_fields (w : Word) : wordNnn (fieldKind w) (fieldNnn w) = w := by
  unfold wordNnn fieldKind fieldNnn
  apply BitVec.eq_of_getLsbD_eq
  intro i hi
  simp only [BitVec.getLsbD_append, BitVec.getLsbD_extractLsb']
  split
  · simp_all
  · rw [show 12 + (i - 12) = i by omega]; simp; intro; omega

theorem wordXkk_fields (w : Word) : wordXkk (fieldKind w) (fieldX w) (fieldKk w) = w := by
  unfold wordXkk fieldKind fieldX fieldKk
  apply BitVec.eq_of_getLsbD_eq
  intro i hi
  simp only [BitVec.getLsbD_append, BitVec.getLsbD_extractLsb']
  split
  · simp_all
  · split
    · rw [show 8 + (i - 8) = i by omega]; simp_all
    · rw [show 12 + (i - 8 - 4) = i by omega]; simp; intro; omega

theorem wordXyn_fields (w : Word) : wordXyn (fieldKind w) (fieldX w) (fieldY w) (fieldN w) = w := by
  unfold wordXyn fieldKind fieldX fieldY fieldN
  apply BitVec.eq_of_getLsbD_eq
  intro i hi
  simp only [BitVec.getLsbD_append, BitVec.getLsbD_extractLsb']
  split
  · simp_all
  · split
    · rw [show 4 + (i - 4) = i by omega]; simp_all
    · split
      · rw [show 8 + (i - 4 - 4) = i by omega]; simp_all
      · rw [show 12 + (i - 4 - 4 - 4) = i by omega]; simp; intro; omega

/-! ## Bytes of a word -/

theorem wordOfBytes_bytes (w : Word) : wordOfBytes (highByte w) (lowByte w) = w := by
  unfold wordOfBytes highByte lowByte
  apply BitVec.eq_of_getLsbD_eq
  intro i hi
  simp only [BitVec.getLsbD_append, BitVec.getLsbD_extractLsb']
  split
  · simp_all
  · rw [show 8 + (i - 8) = i by omega]; simp; intro; omega

@[simp] theorem highByte_wordOfBytes (hi lo : Byte) : highByte (wordOfBytes hi lo) = hi := by
  show BitVec.extractLsb' 8 8 (hi ++ lo) = hi
  apply BitVec.eq_of_getLsbD_eq
  intro i h
  simp only [BitVec.getLsbD_extractLsb', BitVec.getLsbD_append]
  simp only [h, decide_true, Bool.true_and]
  repeat' split
  all_goals first | omega | (congr 1; omega)

@[simp] theorem lowByte_wordOfBytes (hi lo : Byte) : lowByte (wordOfBytes hi lo) = lo := by
  show BitVec.extractLsb' 0 8 (hi ++ lo) = lo
  apply BitVec.eq_of_getLsbD_eq
  intro i h
  simp only [BitVec.getLsbD_extractLsb', BitVec.getLsbD_append]
  simp only [h, decide_true, Bool.true_and]
  repeat' split
  all_goals first | omega | (congr 1; omega)

/-- The decoder reads the first two bytes, high byte first, and leaves the rest. -/
theorem decode_cons (hi lo : Byte) (rest : List Byte) :
    decode (hi :: lo :: rest) = (decodeWord (wordOfBytes hi lo)).map (fun i => (i, rest)) := by
  simp only [decode]
  cases decodeWord (wordOfBytes hi lo) <;> rfl

end Sys2Proof
end

