-- ==== Sys2Proof/Laws/Memory.lean ====
section
/-! SUPPORT. The laws of memory: a read after a write to the same place gives the value written, a write leaves every
other place alone, and every memory operation keeps the canonical form. -/

namespace Sys2Proof.Machine

theorem Memory.lookup_insert_same (a : Nat) (b : Byte) (m : List Host.Cell) :
    Memory.lookup (Memory.insert a b m) a = some b := by
  induction m with
  | nil => simp [Memory.insert, Memory.lookup]
  | cons kc m ih =>
    obtain ⟨k, c⟩ := kc
    simp only [Memory.insert]
    split
    · simp [Memory.lookup]
    · split
      · simp [Memory.lookup]
      · rename_i h; simp [Memory.lookup, h, ih]

theorem Memory.lookup_insert_ne {a a' : Nat} (h : a' ≠ a) (b : Byte) (m : List Host.Cell) :
    Memory.lookup (Memory.insert a b m) a' = Memory.lookup m a' := by
  induction m with
  | nil => simp [Memory.insert, Memory.lookup, h.symm]
  | cons kc m ih =>
    obtain ⟨k, c⟩ := kc
    simp only [Memory.insert]
    split
    · simp [Memory.lookup, h.symm]
    · split
      · rename_i hk; subst hk; simp [Memory.lookup, h.symm]
      · simp [Memory.lookup, ih]

theorem Memory.lookup_erase_same (a : Nat) (m : List Host.Cell) :
    Memory.lookup (Memory.erase a m) a = none := by
  induction m with
  | nil => rfl
  | cons kc m ih =>
    obtain ⟨k, c⟩ := kc
    simp only [Memory.erase]
    split
    · exact ih
    · rename_i h; simp [Memory.lookup, h, ih]

theorem Memory.lookup_erase_ne {a a' : Nat} (h : a' ≠ a) (m : List Host.Cell) :
    Memory.lookup (Memory.erase a m) a' = Memory.lookup m a' := by
  induction m with
  | nil => rfl
  | cons kc m ih =>
    obtain ⟨k, c⟩ := kc
    simp only [Memory.erase]
    split
    · rename_i hk; subst hk; simp [Memory.lookup, h.symm, ih]
    · simp [Memory.lookup, ih]

theorem Memory.read_write_same (c : Config) (m : List Host.Cell) (a : Nat) (b : Byte) :
    Memory.read c (Memory.write c m a b) a = b := by
  unfold Memory.read Memory.write
  split
  · rename_i h; simp [Memory.lookup_erase_same, h]
  · simp [Memory.lookup_insert_same]

theorem Memory.read_write_ne {a a' : Nat} (h : a' ≠ a) (c : Config) (m : List Host.Cell) (b : Byte) :
    Memory.read c (Memory.write c m a b) a' = Memory.read c m a' := by
  unfold Memory.read Memory.write
  split
  · rw [Memory.lookup_erase_ne h]
  · rw [Memory.lookup_insert_ne h]

/-! ## The canonical form -/

theorem Memory.wfFrom_cons {c : Config} {lo k : Nat} {b : Byte} {m : List Host.Cell} :
    Memory.wfFrom c lo ((k, b) :: m) = true ↔
      lo ≤ k ∧ k < memSize ∧ b ≠ resetByte c k ∧ Memory.wfFrom c (k + 1) m = true := by
  simp [Memory.wfFrom, and_assoc]

theorem Memory.wfFrom_mono {c : Config} {lo lo' : Nat} {m : List Host.Cell} (h : lo' ≤ lo)
    (hm : Memory.wfFrom c lo m = true) : Memory.wfFrom c lo' m = true := by
  cases m with
  | nil => rfl
  | cons kb m =>
    obtain ⟨k, b⟩ := kb
    rw [Memory.wfFrom_cons] at hm ⊢
    exact ⟨le_trans h hm.1, hm.2⟩

theorem Memory.wfFrom_erase {c : Config} {lo : Nat} {m : List Host.Cell} (a : Nat)
    (hm : Memory.wfFrom c lo m = true) : Memory.wfFrom c lo (Memory.erase a m) = true := by
  induction m generalizing lo with
  | nil => rfl
  | cons kb m ih =>
    obtain ⟨k, b⟩ := kb
    rw [Memory.wfFrom_cons] at hm
    obtain ⟨h1, h2, h3, h4⟩ := hm
    simp only [Memory.erase]
    split
    · exact Memory.wfFrom_mono (by omega) (ih h4)
    · exact Memory.wfFrom_cons.2 ⟨h1, h2, h3, ih h4⟩

theorem Memory.wfFrom_insert {c : Config} {lo a : Nat} {b : Byte} {m : List Host.Cell} (hlo : lo ≤ a)
    (ha : a < memSize) (hb : b ≠ resetByte c a) (hm : Memory.wfFrom c lo m = true) :
    Memory.wfFrom c lo (Memory.insert a b m) = true := by
  induction m generalizing lo with
  | nil => exact Memory.wfFrom_cons.2 ⟨hlo, ha, hb, rfl⟩
  | cons kc m ih =>
    obtain ⟨k, d⟩ := kc
    rw [Memory.wfFrom_cons] at hm
    obtain ⟨h1, h2, h3, h4⟩ := hm
    simp only [Memory.insert]
    split
    · exact Memory.wfFrom_cons.2 ⟨hlo, ha, hb, Memory.wfFrom_cons.2 ⟨by omega, h2, h3, h4⟩⟩
    · split
      · rename_i hk; subst hk; exact Memory.wfFrom_cons.2 ⟨hlo, ha, hb, h4⟩
      · exact Memory.wfFrom_cons.2 ⟨h1, h2, h3, ih (by omega) h4⟩

/-- A write inside MEM keeps the canonical form. -/
theorem Memory.wf_write {c : Config} {m : List Host.Cell} {a : Nat} (b : Byte) (ha : a < memSize)
    (hm : Memory.wf c m = true) : Memory.wf c (Memory.write c m a b) = true := by
  unfold Memory.wf Memory.write at *
  split
  · exact Memory.wfFrom_erase a hm
  · rename_i hb; exact Memory.wfFrom_insert (Nat.zero_le a) ha hb hm

/-- The memory of the reset state is in canonical form. -/
theorem Memory.wf_reset : Memory.wf State.reset.config State.reset.mem = true := rfl

/-- What an unlisted address reads as. -/
theorem Memory.read_nil (c : Config) (a : Nat) : Memory.read c [] a = resetByte c a := rfl

/-- In canonical form nothing below the bound is listed. -/
theorem Memory.lookup_lt {c : Config} {lo a : Nat} {m : List Host.Cell} (hm : Memory.wfFrom c lo m = true)
    (ha : a < lo) : Memory.lookup m a = none := by
  induction m generalizing lo with
  | nil => rfl
  | cons kb m ih =>
    obtain ⟨k, b⟩ := kb
    rw [Memory.wfFrom_cons] at hm
    obtain ⟨h1, _, _, h4⟩ := hm
    simp only [Memory.lookup]
    rw [if_neg (by omega)]
    exact ih h4 (by omega)

/-- Canonical memories that read alike everywhere are equal lists. -/
theorem Memory.eq_of_read_eq {c : Config} {lo : Nat} {m m' : List Host.Cell} (hm : Memory.wfFrom c lo m = true)
    (hm' : Memory.wfFrom c lo m' = true) (h : ∀ a, Memory.read c m a = Memory.read c m' a) : m = m' := by
  have key : ∀ {lo k : Nat} {b : Byte} {m m' : List Host.Cell}, Memory.wfFrom c lo ((k, b) :: m) = true →
      Memory.wfFrom c (k + 1) m' = true → Memory.read c ((k, b) :: m) k ≠ Memory.read c m' k := by
    intro lo k b m m' h1 h2
    rw [Memory.wfFrom_cons] at h1
    simp only [Memory.read, Memory.lookup, if_true, Option.getD_some, Memory.lookup_lt h2 (Nat.lt_succ_self k),
      Option.getD_none]
    exact h1.2.2.1
  induction m generalizing lo m' with
  | nil =>
    cases m' with
    | nil => rfl
    | cons kb m' =>
      obtain ⟨k, b⟩ := kb
      exact absurd (h k).symm (key hm' rfl)
  | cons kb m ih =>
    obtain ⟨k, b⟩ := kb
    cases m' with
    | nil => exact absurd (h k) (key hm rfl)
    | cons kb' m' =>
      obtain ⟨k', b'⟩ := kb'
      have e := Memory.wfFrom_cons.1 hm
      have e' := Memory.wfFrom_cons.1 hm'
      rcases Nat.lt_trichotomy k k' with hk | hk | hk
      · exact absurd (h k) (key hm (Memory.wfFrom_cons.2 ⟨by omega, e'.2⟩))
      · subst hk
        have hb : b = b' := by simpa [Memory.read, Memory.lookup] using h k
        subst hb
        congr 1
        refine ih e.2.2.2 e'.2.2.2 (fun a => ?_)
        by_cases ha : k = a
        · subst ha
          simp [Memory.read, Memory.lookup_lt e.2.2.2, Memory.lookup_lt e'.2.2.2]
        · simpa [Memory.read, Memory.lookup, ha] using h a
      · exact absurd (h k').symm (key hm' (Memory.wfFrom_cons.2 ⟨by omega, e.2⟩))

/-! ## The state's memory -/

variable (s : State)

@[simp] theorem State.readByte_writeByte_same (a : Nat) (b : Byte) : (s.writeByte a b).readByte a = b :=
  Memory.read_write_same ..

theorem State.readByte_writeByte_ne {a k : Nat} (h : k ≠ a) (b : Byte) :
    (s.writeByte a b).readByte k = s.readByte k :=
  Memory.read_write_ne h ..

theorem State.readByte_writeByte (a k : Nat) (b : Byte) :
    (s.writeByte a b).readByte k = if k = a then b else s.readByte k := by
  split
  · rename_i h; subst h; simp
  · rename_i h; exact State.readByte_writeByte_ne s h b

/-- Everything a block store does to memory: byte `k` of the list lands at `a + k`, every other byte is as before. -/
theorem State.readByte_writeBytes (a : Nat) (bs : List Byte) (k : Nat) :
    (s.writeBytes a bs).readByte k = if h : a ≤ k ∧ k < a + bs.length then bs[k - a] else s.readByte k := by
  induction bs generalizing s a with
  | nil => rw [dif_neg (by simp)]; rfl
  | cons b bs ih =>
    simp only [State.writeBytes, ih, State.readByte_writeByte, List.length_cons]
    by_cases h1 : a + 1 ≤ k ∧ k < a + 1 + bs.length
    · rw [dif_pos h1, dif_pos (by omega)]
      obtain ⟨j, rfl⟩ : ∃ j, k = a + 1 + j := ⟨k - (a + 1), by omega⟩
      have e1 : a + 1 + j - (a + 1) = j := by omega
      have e2 : a + 1 + j - a = j + 1 := by omega
      simp [e1, e2]
    · rw [dif_neg h1]
      by_cases h2 : k = a
      · subst h2
        rw [if_pos rfl, dif_pos (by omega)]
        simp
      · rw [if_neg h2, dif_neg (by omega)]

/-- A block store inside MEM keeps the canonical form. -/
theorem State.writeBytes_wf {a : Nat} (bs : List Byte) (ha : a + bs.length ≤ memSize)
    (h : Memory.wf s.config s.mem = true) :
    Memory.wf (s.writeBytes a bs).config (s.writeBytes a bs).mem = true := by
  induction bs generalizing s a with
  | nil => exact h
  | cons b bs ih =>
    simp only [List.length_cons] at ha
    exact ih (s.writeByte a b) (by omega) (Memory.wf_write b (by omega) h)

/-- What a block store leaves alone: it changes memory and nothing else. -/
theorem State.writeBytes_eq (a : Nat) (bs : List Byte) :
    s.writeBytes a bs = { s with mem := (s.writeBytes a bs).mem } := by
  induction bs generalizing s a with
  | nil => rfl
  | cons b bs ih =>
    have := ih (s.writeByte a b) (a + 1)
    simpa [State.writeBytes, State.writeByte] using this

end Sys2Proof.Machine
end

