-- ==== Sys2Proof/Laws/State.lean ====
section
/-! SUPPORT. What each update of the state does to each field: one lemma per field per update, all by rfl, so that no
later proof unfolds a record update. The reads `getV` and `readByte` are treated as fields. -/

namespace Sys2Proof.Machine
variable (s : State)



/-! ### writeByte -/

@[simp] theorem State.writeByte_mem (a : Nat) (b : Byte) : (s.writeByte a b).mem = Memory.write s.config s.mem a b := rfl
@[simp] theorem State.writeByte_v (a : Nat) (b : Byte) : (s.writeByte a b).v = s.v := rfl
@[simp] theorem State.writeByte_i (a : Nat) (b : Byte) : (s.writeByte a b).i = s.i := rfl
@[simp] theorem State.writeByte_pc (a : Nat) (b : Byte) : (s.writeByte a b).pc = s.pc := rfl
@[simp] theorem State.writeByte_sp (a : Nat) (b : Byte) : (s.writeByte a b).sp = s.sp := rfl
@[simp] theorem State.writeByte_stack (a : Nat) (b : Byte) : (s.writeByte a b).stack = s.stack := rfl
@[simp] theorem State.writeByte_dt (a : Nat) (b : Byte) : (s.writeByte a b).dt = s.dt := rfl
@[simp] theorem State.writeByte_st (a : Nat) (b : Byte) : (s.writeByte a b).st = s.st := rfl
@[simp] theorem State.writeByte_key (a : Nat) (b : Byte) : (s.writeByte a b).key = s.key := rfl
@[simp] theorem State.writeByte_fb (a : Nat) (b : Byte) : (s.writeByte a b).fb = s.fb := rfl
@[simp] theorem State.writeByte_status (a : Nat) (b : Byte) : (s.writeByte a b).status = s.status := rfl
@[simp] theorem State.writeByte_draws (a : Nat) (b : Byte) : (s.writeByte a b).draws = s.draws := rfl
@[simp] theorem State.writeByte_config (a : Nat) (b : Byte) : (s.writeByte a b).config = s.config := rfl
@[simp] theorem State.writeByte_getV (a : Nat) (b : Byte) (y : RegIdx) : (s.writeByte a b).getV y = s.getV y := rfl

/-! ### setV -/

@[simp] theorem State.setV_mem (x : RegIdx) (b : Byte) : (s.setV x b).mem = s.mem := rfl
@[simp] theorem State.setV_i (x : RegIdx) (b : Byte) : (s.setV x b).i = s.i := rfl
@[simp] theorem State.setV_pc (x : RegIdx) (b : Byte) : (s.setV x b).pc = s.pc := rfl
@[simp] theorem State.setV_sp (x : RegIdx) (b : Byte) : (s.setV x b).sp = s.sp := rfl
@[simp] theorem State.setV_stack (x : RegIdx) (b : Byte) : (s.setV x b).stack = s.stack := rfl
@[simp] theorem State.setV_dt (x : RegIdx) (b : Byte) : (s.setV x b).dt = s.dt := rfl
@[simp] theorem State.setV_st (x : RegIdx) (b : Byte) : (s.setV x b).st = s.st := rfl
@[simp] theorem State.setV_key (x : RegIdx) (b : Byte) : (s.setV x b).key = s.key := rfl
@[simp] theorem State.setV_fb (x : RegIdx) (b : Byte) : (s.setV x b).fb = s.fb := rfl
@[simp] theorem State.setV_status (x : RegIdx) (b : Byte) : (s.setV x b).status = s.status := rfl
@[simp] theorem State.setV_draws (x : RegIdx) (b : Byte) : (s.setV x b).draws = s.draws := rfl
@[simp] theorem State.setV_config (x : RegIdx) (b : Byte) : (s.setV x b).config = s.config := rfl
@[simp] theorem State.setV_readByte (x : RegIdx) (b : Byte) (k : Nat) : (s.setV x b).readByte k = s.readByte k := rfl

/-! ### latch -/

@[simp] theorem State.latch_mem (f : FaultCode) (fpc fop : Word) : (s.latch f fpc fop).mem = s.mem := rfl
@[simp] theorem State.latch_v (f : FaultCode) (fpc fop : Word) : (s.latch f fpc fop).v = s.v := rfl
@[simp] theorem State.latch_i (f : FaultCode) (fpc fop : Word) : (s.latch f fpc fop).i = s.i := rfl
@[simp] theorem State.latch_pc (f : FaultCode) (fpc fop : Word) : (s.latch f fpc fop).pc = s.pc := rfl
@[simp] theorem State.latch_sp (f : FaultCode) (fpc fop : Word) : (s.latch f fpc fop).sp = s.sp := rfl
@[simp] theorem State.latch_stack (f : FaultCode) (fpc fop : Word) : (s.latch f fpc fop).stack = s.stack := rfl
@[simp] theorem State.latch_dt (f : FaultCode) (fpc fop : Word) : (s.latch f fpc fop).dt = s.dt := rfl
@[simp] theorem State.latch_st (f : FaultCode) (fpc fop : Word) : (s.latch f fpc fop).st = s.st := rfl
@[simp] theorem State.latch_key (f : FaultCode) (fpc fop : Word) : (s.latch f fpc fop).key = s.key := rfl
@[simp] theorem State.latch_fb (f : FaultCode) (fpc fop : Word) : (s.latch f fpc fop).fb = s.fb := rfl
@[simp] theorem State.latch_status (f : FaultCode) (fpc fop : Word) : (s.latch f fpc fop).status = { code := f, fpc := fpc, fop := fop } := rfl
@[simp] theorem State.latch_draws (f : FaultCode) (fpc fop : Word) : (s.latch f fpc fop).draws = s.draws := rfl
@[simp] theorem State.latch_config (f : FaultCode) (fpc fop : Word) : (s.latch f fpc fop).config = s.config := rfl
@[simp] theorem State.latch_getV (f : FaultCode) (fpc fop : Word) (y : RegIdx) : (s.latch f fpc fop).getV y = s.getV y := rfl
@[simp] theorem State.latch_readByte (f : FaultCode) (fpc fop : Word) (k : Nat) : (s.latch f fpc fop).readByte k = s.readByte k := rfl

/-! ### advance -/

@[simp] theorem State.advance_mem : (s.advance).mem = s.mem := rfl
@[simp] theorem State.advance_v : (s.advance).v = s.v := rfl
@[simp] theorem State.advance_i : (s.advance).i = s.i := rfl
@[simp] theorem State.advance_pc : (s.advance).pc = s.pc + 2 := rfl
@[simp] theorem State.advance_sp : (s.advance).sp = s.sp := rfl
@[simp] theorem State.advance_stack : (s.advance).stack = s.stack := rfl
@[simp] theorem State.advance_dt : (s.advance).dt = s.dt := rfl
@[simp] theorem State.advance_st : (s.advance).st = s.st := rfl
@[simp] theorem State.advance_key : (s.advance).key = s.key := rfl
@[simp] theorem State.advance_fb : (s.advance).fb = s.fb := rfl
@[simp] theorem State.advance_status : (s.advance).status = s.status := rfl
@[simp] theorem State.advance_draws : (s.advance).draws = s.draws := rfl
@[simp] theorem State.advance_config : (s.advance).config = s.config := rfl
@[simp] theorem State.advance_getV (y : RegIdx) : (s.advance).getV y = s.getV y := rfl
@[simp] theorem State.advance_readByte (k : Nat) : (s.advance).readByte k = s.readByte k := rfl

/-! ### rewind -/

@[simp] theorem State.rewind_mem : (s.rewind).mem = s.mem := rfl
@[simp] theorem State.rewind_v : (s.rewind).v = s.v := rfl
@[simp] theorem State.rewind_i : (s.rewind).i = s.i := rfl
@[simp] theorem State.rewind_pc : (s.rewind).pc = s.pc - 2 := rfl
@[simp] theorem State.rewind_sp : (s.rewind).sp = s.sp := rfl
@[simp] theorem State.rewind_stack : (s.rewind).stack = s.stack := rfl
@[simp] theorem State.rewind_dt : (s.rewind).dt = s.dt := rfl
@[simp] theorem State.rewind_st : (s.rewind).st = s.st := rfl
@[simp] theorem State.rewind_key : (s.rewind).key = s.key := rfl
@[simp] theorem State.rewind_fb : (s.rewind).fb = s.fb := rfl
@[simp] theorem State.rewind_status : (s.rewind).status = s.status := rfl
@[simp] theorem State.rewind_draws : (s.rewind).draws = s.draws := rfl
@[simp] theorem State.rewind_config : (s.rewind).config = s.config := rfl
@[simp] theorem State.rewind_getV (y : RegIdx) : (s.rewind).getV y = s.getV y := rfl
@[simp] theorem State.rewind_readByte (k : Nat) : (s.rewind).readByte k = s.readByte k := rfl

/-! ### jump -/

@[simp] theorem State.jump_mem (a : Word) : (s.jump a).mem = s.mem := rfl
@[simp] theorem State.jump_v (a : Word) : (s.jump a).v = s.v := rfl
@[simp] theorem State.jump_i (a : Word) : (s.jump a).i = s.i := rfl
@[simp] theorem State.jump_pc (a : Word) : (s.jump a).pc = a := rfl
@[simp] theorem State.jump_sp (a : Word) : (s.jump a).sp = s.sp := rfl
@[simp] theorem State.jump_stack (a : Word) : (s.jump a).stack = s.stack := rfl
@[simp] theorem State.jump_dt (a : Word) : (s.jump a).dt = s.dt := rfl
@[simp] theorem State.jump_st (a : Word) : (s.jump a).st = s.st := rfl
@[simp] theorem State.jump_key (a : Word) : (s.jump a).key = s.key := rfl
@[simp] theorem State.jump_fb (a : Word) : (s.jump a).fb = s.fb := rfl
@[simp] theorem State.jump_status (a : Word) : (s.jump a).status = s.status := rfl
@[simp] theorem State.jump_draws (a : Word) : (s.jump a).draws = s.draws := rfl
@[simp] theorem State.jump_config (a : Word) : (s.jump a).config = s.config := rfl
@[simp] theorem State.jump_getV (a : Word) (y : RegIdx) : (s.jump a).getV y = s.getV y := rfl
@[simp] theorem State.jump_readByte (a : Word) (k : Nat) : (s.jump a).readByte k = s.readByte k := rfl

/-! ### push -/

@[simp] theorem State.push_mem (a : Word) (h : s.sp.val < 16) : (s.push a h).mem = s.mem := rfl
@[simp] theorem State.push_v (a : Word) (h : s.sp.val < 16) : (s.push a h).v = s.v := rfl
@[simp] theorem State.push_i (a : Word) (h : s.sp.val < 16) : (s.push a h).i = s.i := rfl
@[simp] theorem State.push_pc (a : Word) (h : s.sp.val < 16) : (s.push a h).pc = s.pc := rfl
@[simp] theorem State.push_sp (a : Word) (h : s.sp.val < 16) : (s.push a h).sp = ⟨s.sp.val + 1, by omega⟩ := rfl
@[simp] theorem State.push_stack (a : Word) (h : s.sp.val < 16) : (s.push a h).stack = s.stack.set s.sp.val a h := rfl
@[simp] theorem State.push_dt (a : Word) (h : s.sp.val < 16) : (s.push a h).dt = s.dt := rfl
@[simp] theorem State.push_st (a : Word) (h : s.sp.val < 16) : (s.push a h).st = s.st := rfl
@[simp] theorem State.push_key (a : Word) (h : s.sp.val < 16) : (s.push a h).key = s.key := rfl
@[simp] theorem State.push_fb (a : Word) (h : s.sp.val < 16) : (s.push a h).fb = s.fb := rfl
@[simp] theorem State.push_status (a : Word) (h : s.sp.val < 16) : (s.push a h).status = s.status := rfl
@[simp] theorem State.push_draws (a : Word) (h : s.sp.val < 16) : (s.push a h).draws = s.draws := rfl
@[simp] theorem State.push_config (a : Word) (h : s.sp.val < 16) : (s.push a h).config = s.config := rfl
@[simp] theorem State.push_getV (a : Word) (h : s.sp.val < 16) (y : RegIdx) : (s.push a h).getV y = s.getV y := rfl
@[simp] theorem State.push_readByte (a : Word) (h : s.sp.val < 16) (k : Nat) : (s.push a h).readByte k = s.readByte k := rfl

/-! ### pop -/

@[simp] theorem State.pop_mem : (s.pop).mem = s.mem := rfl
@[simp] theorem State.pop_v : (s.pop).v = s.v := rfl
@[simp] theorem State.pop_i : (s.pop).i = s.i := rfl
@[simp] theorem State.pop_pc : (s.pop).pc = s.pc := rfl
@[simp] theorem State.pop_sp : (s.pop).sp = ⟨s.sp.val - 1, by omega⟩ := rfl
@[simp] theorem State.pop_stack : (s.pop).stack = s.stack := rfl
@[simp] theorem State.pop_dt : (s.pop).dt = s.dt := rfl
@[simp] theorem State.pop_st : (s.pop).st = s.st := rfl
@[simp] theorem State.pop_key : (s.pop).key = s.key := rfl
@[simp] theorem State.pop_fb : (s.pop).fb = s.fb := rfl
@[simp] theorem State.pop_status : (s.pop).status = s.status := rfl
@[simp] theorem State.pop_draws : (s.pop).draws = s.draws := rfl
@[simp] theorem State.pop_config : (s.pop).config = s.config := rfl
@[simp] theorem State.pop_getV (y : RegIdx) : (s.pop).getV y = s.getV y := rfl
@[simp] theorem State.pop_readByte (k : Nat) : (s.pop).readByte k = s.readByte k := rfl

/-! ### setI -/

@[simp] theorem State.setI_mem (a : Word) : (s.setI a).mem = s.mem := rfl
@[simp] theorem State.setI_v (a : Word) : (s.setI a).v = s.v := rfl
@[simp] theorem State.setI_i (a : Word) : (s.setI a).i = a := rfl
@[simp] theorem State.setI_pc (a : Word) : (s.setI a).pc = s.pc := rfl
@[simp] theorem State.setI_sp (a : Word) : (s.setI a).sp = s.sp := rfl
@[simp] theorem State.setI_stack (a : Word) : (s.setI a).stack = s.stack := rfl
@[simp] theorem State.setI_dt (a : Word) : (s.setI a).dt = s.dt := rfl
@[simp] theorem State.setI_st (a : Word) : (s.setI a).st = s.st := rfl
@[simp] theorem State.setI_key (a : Word) : (s.setI a).key = s.key := rfl
@[simp] theorem State.setI_fb (a : Word) : (s.setI a).fb = s.fb := rfl
@[simp] theorem State.setI_status (a : Word) : (s.setI a).status = s.status := rfl
@[simp] theorem State.setI_draws (a : Word) : (s.setI a).draws = s.draws := rfl
@[simp] theorem State.setI_config (a : Word) : (s.setI a).config = s.config := rfl
@[simp] theorem State.setI_getV (a : Word) (y : RegIdx) : (s.setI a).getV y = s.getV y := rfl
@[simp] theorem State.setI_readByte (a : Word) (k : Nat) : (s.setI a).readByte k = s.readByte k := rfl

/-! ### setFb -/

@[simp] theorem State.setFb_mem (f : Screen) : (s.setFb f).mem = s.mem := rfl
@[simp] theorem State.setFb_v (f : Screen) : (s.setFb f).v = s.v := rfl
@[simp] theorem State.setFb_i (f : Screen) : (s.setFb f).i = s.i := rfl
@[simp] theorem State.setFb_pc (f : Screen) : (s.setFb f).pc = s.pc := rfl
@[simp] theorem State.setFb_sp (f : Screen) : (s.setFb f).sp = s.sp := rfl
@[simp] theorem State.setFb_stack (f : Screen) : (s.setFb f).stack = s.stack := rfl
@[simp] theorem State.setFb_dt (f : Screen) : (s.setFb f).dt = s.dt := rfl
@[simp] theorem State.setFb_st (f : Screen) : (s.setFb f).st = s.st := rfl
@[simp] theorem State.setFb_key (f : Screen) : (s.setFb f).key = s.key := rfl
@[simp] theorem State.setFb_fb (f : Screen) : (s.setFb f).fb = f := rfl
@[simp] theorem State.setFb_status (f : Screen) : (s.setFb f).status = s.status := rfl
@[simp] theorem State.setFb_draws (f : Screen) : (s.setFb f).draws = s.draws := rfl
@[simp] theorem State.setFb_config (f : Screen) : (s.setFb f).config = s.config := rfl
@[simp] theorem State.setFb_getV (f : Screen) (y : RegIdx) : (s.setFb f).getV y = s.getV y := rfl
@[simp] theorem State.setFb_readByte (f : Screen) (k : Nat) : (s.setFb f).readByte k = s.readByte k := rfl

/-! ### setDt -/

@[simp] theorem State.setDt_mem (b : Byte) : (s.setDt b).mem = s.mem := rfl
@[simp] theorem State.setDt_v (b : Byte) : (s.setDt b).v = s.v := rfl
@[simp] theorem State.setDt_i (b : Byte) : (s.setDt b).i = s.i := rfl
@[simp] theorem State.setDt_pc (b : Byte) : (s.setDt b).pc = s.pc := rfl
@[simp] theorem State.setDt_sp (b : Byte) : (s.setDt b).sp = s.sp := rfl
@[simp] theorem State.setDt_stack (b : Byte) : (s.setDt b).stack = s.stack := rfl
@[simp] theorem State.setDt_dt (b : Byte) : (s.setDt b).dt = b := rfl
@[simp] theorem State.setDt_st (b : Byte) : (s.setDt b).st = s.st := rfl
@[simp] theorem State.setDt_key (b : Byte) : (s.setDt b).key = s.key := rfl
@[simp] theorem State.setDt_fb (b : Byte) : (s.setDt b).fb = s.fb := rfl
@[simp] theorem State.setDt_status (b : Byte) : (s.setDt b).status = s.status := rfl
@[simp] theorem State.setDt_draws (b : Byte) : (s.setDt b).draws = s.draws := rfl
@[simp] theorem State.setDt_config (b : Byte) : (s.setDt b).config = s.config := rfl
@[simp] theorem State.setDt_getV (b : Byte) (y : RegIdx) : (s.setDt b).getV y = s.getV y := rfl
@[simp] theorem State.setDt_readByte (b : Byte) (k : Nat) : (s.setDt b).readByte k = s.readByte k := rfl

/-! ### setSt -/

@[simp] theorem State.setSt_mem (b : Byte) : (s.setSt b).mem = s.mem := rfl
@[simp] theorem State.setSt_v (b : Byte) : (s.setSt b).v = s.v := rfl
@[simp] theorem State.setSt_i (b : Byte) : (s.setSt b).i = s.i := rfl
@[simp] theorem State.setSt_pc (b : Byte) : (s.setSt b).pc = s.pc := rfl
@[simp] theorem State.setSt_sp (b : Byte) : (s.setSt b).sp = s.sp := rfl
@[simp] theorem State.setSt_stack (b : Byte) : (s.setSt b).stack = s.stack := rfl
@[simp] theorem State.setSt_dt (b : Byte) : (s.setSt b).dt = s.dt := rfl
@[simp] theorem State.setSt_st (b : Byte) : (s.setSt b).st = b := rfl
@[simp] theorem State.setSt_key (b : Byte) : (s.setSt b).key = s.key := rfl
@[simp] theorem State.setSt_fb (b : Byte) : (s.setSt b).fb = s.fb := rfl
@[simp] theorem State.setSt_status (b : Byte) : (s.setSt b).status = s.status := rfl
@[simp] theorem State.setSt_draws (b : Byte) : (s.setSt b).draws = s.draws := rfl
@[simp] theorem State.setSt_config (b : Byte) : (s.setSt b).config = s.config := rfl
@[simp] theorem State.setSt_getV (b : Byte) (y : RegIdx) : (s.setSt b).getV y = s.getV y := rfl
@[simp] theorem State.setSt_readByte (b : Byte) (k : Nat) : (s.setSt b).readByte k = s.readByte k := rfl

/-! ### loadDraw -/

@[simp] theorem State.loadDraw_mem (r : Byte) (x : RegIdx) (kk : Byte) : (s.loadDraw r x kk).mem = s.mem := rfl
@[simp] theorem State.loadDraw_v (r : Byte) (x : RegIdx) (kk : Byte) : (s.loadDraw r x kk).v = (s.setV x (r &&& kk)).v := rfl
@[simp] theorem State.loadDraw_i (r : Byte) (x : RegIdx) (kk : Byte) : (s.loadDraw r x kk).i = s.i := rfl
@[simp] theorem State.loadDraw_pc (r : Byte) (x : RegIdx) (kk : Byte) : (s.loadDraw r x kk).pc = s.pc := rfl
@[simp] theorem State.loadDraw_sp (r : Byte) (x : RegIdx) (kk : Byte) : (s.loadDraw r x kk).sp = s.sp := rfl
@[simp] theorem State.loadDraw_stack (r : Byte) (x : RegIdx) (kk : Byte) : (s.loadDraw r x kk).stack = s.stack := rfl
@[simp] theorem State.loadDraw_dt (r : Byte) (x : RegIdx) (kk : Byte) : (s.loadDraw r x kk).dt = s.dt := rfl
@[simp] theorem State.loadDraw_st (r : Byte) (x : RegIdx) (kk : Byte) : (s.loadDraw r x kk).st = s.st := rfl
@[simp] theorem State.loadDraw_key (r : Byte) (x : RegIdx) (kk : Byte) : (s.loadDraw r x kk).key = s.key := rfl
@[simp] theorem State.loadDraw_fb (r : Byte) (x : RegIdx) (kk : Byte) : (s.loadDraw r x kk).fb = s.fb := rfl
@[simp] theorem State.loadDraw_status (r : Byte) (x : RegIdx) (kk : Byte) : (s.loadDraw r x kk).status = s.status := rfl
@[simp] theorem State.loadDraw_draws (r : Byte) (x : RegIdx) (kk : Byte) : (s.loadDraw r x kk).draws = s.draws + 1 := rfl
@[simp] theorem State.loadDraw_config (r : Byte) (x : RegIdx) (kk : Byte) : (s.loadDraw r x kk).config = s.config := rfl
@[simp] theorem State.loadDraw_readByte (r : Byte) (x : RegIdx) (kk : Byte) (k : Nat) : (s.loadDraw r x kk).readByte k = s.readByte k := rfl

/-! ### tickTimers -/

@[simp] theorem State.tickTimers_mem : (s.tickTimers).mem = s.mem := rfl
@[simp] theorem State.tickTimers_v : (s.tickTimers).v = s.v := rfl
@[simp] theorem State.tickTimers_i : (s.tickTimers).i = s.i := rfl
@[simp] theorem State.tickTimers_pc : (s.tickTimers).pc = s.pc := rfl
@[simp] theorem State.tickTimers_sp : (s.tickTimers).sp = s.sp := rfl
@[simp] theorem State.tickTimers_stack : (s.tickTimers).stack = s.stack := rfl
@[simp] theorem State.tickTimers_dt : (s.tickTimers).dt = tickTimer s.dt := rfl
@[simp] theorem State.tickTimers_st : (s.tickTimers).st = tickTimer s.st := rfl
@[simp] theorem State.tickTimers_key : (s.tickTimers).key = s.key := rfl
@[simp] theorem State.tickTimers_fb : (s.tickTimers).fb = s.fb := rfl
@[simp] theorem State.tickTimers_status : (s.tickTimers).status = s.status := rfl
@[simp] theorem State.tickTimers_draws : (s.tickTimers).draws = s.draws := rfl
@[simp] theorem State.tickTimers_config : (s.tickTimers).config = s.config := rfl
@[simp] theorem State.tickTimers_getV (y : RegIdx) : (s.tickTimers).getV y = s.getV y := rfl
@[simp] theorem State.tickTimers_readByte (k : Nat) : (s.tickTimers).readByte k = s.readByte k := rfl

/-! ### keyIn -/

@[simp] theorem State.keyIn_mem (keys : Word) : (s.keyIn keys).mem = s.mem := rfl
@[simp] theorem State.keyIn_v (keys : Word) : (s.keyIn keys).v = s.v := rfl
@[simp] theorem State.keyIn_i (keys : Word) : (s.keyIn keys).i = s.i := rfl
@[simp] theorem State.keyIn_pc (keys : Word) : (s.keyIn keys).pc = s.pc := rfl
@[simp] theorem State.keyIn_sp (keys : Word) : (s.keyIn keys).sp = s.sp := rfl
@[simp] theorem State.keyIn_stack (keys : Word) : (s.keyIn keys).stack = s.stack := rfl
@[simp] theorem State.keyIn_dt (keys : Word) : (s.keyIn keys).dt = s.dt := rfl
@[simp] theorem State.keyIn_st (keys : Word) : (s.keyIn keys).st = s.st := rfl
@[simp] theorem State.keyIn_key (keys : Word) : (s.keyIn keys).key = keys := rfl
@[simp] theorem State.keyIn_fb (keys : Word) : (s.keyIn keys).fb = s.fb := rfl
@[simp] theorem State.keyIn_status (keys : Word) : (s.keyIn keys).status = s.status := rfl
@[simp] theorem State.keyIn_draws (keys : Word) : (s.keyIn keys).draws = s.draws := rfl
@[simp] theorem State.keyIn_config (keys : Word) : (s.keyIn keys).config = s.config := rfl
@[simp] theorem State.keyIn_getV (keys : Word) (y : RegIdx) : (s.keyIn keys).getV y = s.getV y := rfl
@[simp] theorem State.keyIn_readByte (keys : Word) (k : Nat) : (s.keyIn keys).readByte k = s.readByte k := rfl

end Sys2Proof.Machine
end

