-- ==== Sys2Proof/Laws/Ops.lean ====
section
/-! SUPPORT. The laws of the shared operations: registers, block stores and loads, the result and flag writes, skips,
the stack, key selection. Each says once everything its operation can do. -/

namespace Sys2Proof.Machine

/-! ## Registers -/

theorem RegIdx.eq_of_toNat {x y : RegIdx} (h : x.toNat = y.toNat) : x = y := BitVec.eq_of_toNat_eq h

section
variable (s : State)

/-- Everything a register write does to the registers. -/
theorem State.getV_setV (x y : RegIdx) (b : Byte) : (s.setV x b).getV y = if y = x then b else s.getV y := by
  unfold State.getV State.setV
  by_cases h : y = x
  · subst h; simp
  · have : x.toNat ≠ y.toNat := fun e => h (RegIdx.eq_of_toNat e).symm
    simp [h, Vector.getElem_set_ne, this]

@[simp] theorem State.getV_setV_same (x : RegIdx) (b : Byte) : (s.setV x b).getV x = b := by
  simp [State.getV_setV]

theorem State.getV_setV_ne {x y : RegIdx} (h : y ≠ x) (b : Byte) : (s.setV x b).getV y = s.getV y := by
  simp [State.getV_setV, h]

/-- A state with the same registers reads the same. -/
theorem State.v_eq_of_getV_eq {t : State} (h : ∀ y, t.getV y = s.getV y) : t.v = s.v := by
  refine Vector.ext (fun k hk => ?_)
  have := h (BitVec.ofNat 4 k)
  have e : k % 16 = k := Nat.mod_eq_of_lt hk
  simpa [State.getV, e] using this

/-! ## Block stores -/

@[simp] theorem State.writeBytes_v (a : Nat) (bs : List Byte) : (s.writeBytes a bs).v = s.v := by
  rw [State.writeBytes_eq]
@[simp] theorem State.writeBytes_i (a : Nat) (bs : List Byte) : (s.writeBytes a bs).i = s.i := by
  rw [State.writeBytes_eq]
@[simp] theorem State.writeBytes_pc (a : Nat) (bs : List Byte) : (s.writeBytes a bs).pc = s.pc := by
  rw [State.writeBytes_eq]
@[simp] theorem State.writeBytes_sp (a : Nat) (bs : List Byte) : (s.writeBytes a bs).sp = s.sp := by
  rw [State.writeBytes_eq]
@[simp] theorem State.writeBytes_stack (a : Nat) (bs : List Byte) : (s.writeBytes a bs).stack = s.stack := by
  rw [State.writeBytes_eq]
@[simp] theorem State.writeBytes_dt (a : Nat) (bs : List Byte) : (s.writeBytes a bs).dt = s.dt := by
  rw [State.writeBytes_eq]
@[simp] theorem State.writeBytes_st (a : Nat) (bs : List Byte) : (s.writeBytes a bs).st = s.st := by
  rw [State.writeBytes_eq]
@[simp] theorem State.writeBytes_key (a : Nat) (bs : List Byte) : (s.writeBytes a bs).key = s.key := by
  rw [State.writeBytes_eq]
@[simp] theorem State.writeBytes_fb (a : Nat) (bs : List Byte) : (s.writeBytes a bs).fb = s.fb := by
  rw [State.writeBytes_eq]
@[simp] theorem State.writeBytes_status (a : Nat) (bs : List Byte) : (s.writeBytes a bs).status = s.status := by
  rw [State.writeBytes_eq]
@[simp] theorem State.writeBytes_draws (a : Nat) (bs : List Byte) : (s.writeBytes a bs).draws = s.draws := by
  rw [State.writeBytes_eq]
@[simp] theorem State.writeBytes_config (a : Nat) (bs : List Byte) : (s.writeBytes a bs).config = s.config := by
  rw [State.writeBytes_eq]
@[simp] theorem State.writeBytes_getV (a : Nat) (bs : List Byte) (y : RegIdx) : (s.writeBytes a bs).getV y = s.getV y := by
  rw [State.writeBytes_eq]; rfl

/-! ## Skips -/

theorem State.skipIf_pc (c : Bool) : (s.skipIf c).pc = if c then s.pc + 2 else s.pc := by
  cases c <;> rfl

@[simp] theorem State.skipIf_mem (c : Bool) : (s.skipIf c).mem = s.mem := by
  cases c <;> rfl
@[simp] theorem State.skipIf_v (c : Bool) : (s.skipIf c).v = s.v := by
  cases c <;> rfl
@[simp] theorem State.skipIf_i (c : Bool) : (s.skipIf c).i = s.i := by
  cases c <;> rfl
@[simp] theorem State.skipIf_sp (c : Bool) : (s.skipIf c).sp = s.sp := by
  cases c <;> rfl
@[simp] theorem State.skipIf_stack (c : Bool) : (s.skipIf c).stack = s.stack := by
  cases c <;> rfl
@[simp] theorem State.skipIf_dt (c : Bool) : (s.skipIf c).dt = s.dt := by
  cases c <;> rfl
@[simp] theorem State.skipIf_st (c : Bool) : (s.skipIf c).st = s.st := by
  cases c <;> rfl
@[simp] theorem State.skipIf_key (c : Bool) : (s.skipIf c).key = s.key := by
  cases c <;> rfl
@[simp] theorem State.skipIf_fb (c : Bool) : (s.skipIf c).fb = s.fb := by
  cases c <;> rfl
@[simp] theorem State.skipIf_status (c : Bool) : (s.skipIf c).status = s.status := by
  cases c <;> rfl
@[simp] theorem State.skipIf_draws (c : Bool) : (s.skipIf c).draws = s.draws := by
  cases c <;> rfl
@[simp] theorem State.skipIf_config (c : Bool) : (s.skipIf c).config = s.config := by
  cases c <;> rfl
@[simp] theorem State.skipIf_getV (c : Bool) (y : RegIdx) : (s.skipIf c).getV y = s.getV y := by
  cases c <;> rfl
@[simp] theorem State.skipIf_readByte (c : Bool) (k : Nat) : (s.skipIf c).readByte k = s.readByte k := by
  cases c <;> rfl

/-! ## Block loads -/

/-- A block load changes the registers and nothing else. -/
theorem State.loadRegs_eq (a k : Nat) : s.loadRegs a k = { s with v := (s.loadRegs a k).v } := by
  induction k with
  | zero => rfl
  | succ k ih =>
    simp only [State.loadRegs]
    generalize (s.loadRegs a k).readByte (a + k) = b
    rw [ih]
    rfl

@[simp] theorem State.loadRegs_mem (a k : Nat) : (s.loadRegs a k).mem = s.mem := by
  rw [State.loadRegs_eq]
@[simp] theorem State.loadRegs_i (a k : Nat) : (s.loadRegs a k).i = s.i := by
  rw [State.loadRegs_eq]
@[simp] theorem State.loadRegs_pc (a k : Nat) : (s.loadRegs a k).pc = s.pc := by
  rw [State.loadRegs_eq]
@[simp] theorem State.loadRegs_sp (a k : Nat) : (s.loadRegs a k).sp = s.sp := by
  rw [State.loadRegs_eq]
@[simp] theorem State.loadRegs_stack (a k : Nat) : (s.loadRegs a k).stack = s.stack := by
  rw [State.loadRegs_eq]
@[simp] theorem State.loadRegs_dt (a k : Nat) : (s.loadRegs a k).dt = s.dt := by
  rw [State.loadRegs_eq]
@[simp] theorem State.loadRegs_st (a k : Nat) : (s.loadRegs a k).st = s.st := by
  rw [State.loadRegs_eq]
@[simp] theorem State.loadRegs_key (a k : Nat) : (s.loadRegs a k).key = s.key := by
  rw [State.loadRegs_eq]
@[simp] theorem State.loadRegs_fb (a k : Nat) : (s.loadRegs a k).fb = s.fb := by
  rw [State.loadRegs_eq]
@[simp] theorem State.loadRegs_status (a k : Nat) : (s.loadRegs a k).status = s.status := by
  rw [State.loadRegs_eq]
@[simp] theorem State.loadRegs_draws (a k : Nat) : (s.loadRegs a k).draws = s.draws := by
  rw [State.loadRegs_eq]
@[simp] theorem State.loadRegs_config (a k : Nat) : (s.loadRegs a k).config = s.config := by
  rw [State.loadRegs_eq]
@[simp] theorem State.loadRegs_readByte (a k b : Nat) : (s.loadRegs a k).readByte b = s.readByte b := by
  rw [State.loadRegs_eq]; rfl

/-- Everything a block load does to the registers: V0 to V(k-1) take the bytes at `a`, `a + 1`, …. -/
theorem State.getV_loadRegs {k : Nat} (a : Nat) (hk : k ≤ 16) (y : RegIdx) :
    (s.loadRegs a k).getV y = if y.toNat < k then s.readByte (a + y.toNat) else s.getV y := by
  induction k with
  | zero => simp [State.loadRegs]
  | succ k ih =>
    simp only [State.loadRegs, State.getV_setV, State.loadRegs_readByte, ih (by omega)]
    have hn : (BitVec.ofNat 4 k).toNat = k := by simp; omega
    by_cases h : y = BitVec.ofNat 4 k
    · subst h; simp [hn]
    · have hne : y.toNat ≠ k := fun e => h (RegIdx.eq_of_toNat (by rw [e, hn]))
      rw [if_neg h]
      by_cases h2 : y.toNat < k
      · rw [if_pos h2, if_pos (by omega)]
      · rw [if_neg h2, if_neg (by omega)]

/-! ## Results and flags -/

@[simp] theorem State.resultThenFlag_mem (x : RegIdx) (o : AluOut) : (s.resultThenFlag x o).mem = s.mem := rfl
@[simp] theorem State.resultThenFlag_i (x : RegIdx) (o : AluOut) : (s.resultThenFlag x o).i = s.i := rfl
@[simp] theorem State.resultThenFlag_pc (x : RegIdx) (o : AluOut) : (s.resultThenFlag x o).pc = s.pc := rfl
@[simp] theorem State.resultThenFlag_sp (x : RegIdx) (o : AluOut) : (s.resultThenFlag x o).sp = s.sp := rfl
@[simp] theorem State.resultThenFlag_stack (x : RegIdx) (o : AluOut) : (s.resultThenFlag x o).stack = s.stack := rfl
@[simp] theorem State.resultThenFlag_dt (x : RegIdx) (o : AluOut) : (s.resultThenFlag x o).dt = s.dt := rfl
@[simp] theorem State.resultThenFlag_st (x : RegIdx) (o : AluOut) : (s.resultThenFlag x o).st = s.st := rfl
@[simp] theorem State.resultThenFlag_key (x : RegIdx) (o : AluOut) : (s.resultThenFlag x o).key = s.key := rfl
@[simp] theorem State.resultThenFlag_fb (x : RegIdx) (o : AluOut) : (s.resultThenFlag x o).fb = s.fb := rfl
@[simp] theorem State.resultThenFlag_status (x : RegIdx) (o : AluOut) : (s.resultThenFlag x o).status = s.status := rfl
@[simp] theorem State.resultThenFlag_draws (x : RegIdx) (o : AluOut) : (s.resultThenFlag x o).draws = s.draws := rfl
@[simp] theorem State.resultThenFlag_config (x : RegIdx) (o : AluOut) : (s.resultThenFlag x o).config = s.config := rfl
@[simp] theorem State.resultThenFlag_readByte (x : RegIdx) (o : AluOut) (k : Nat) : (s.resultThenFlag x o).readByte k = s.readByte k := rfl
@[simp] theorem State.flagThenResult_mem (x : RegIdx) (o : AluOut) : (s.flagThenResult x o).mem = s.mem := rfl
@[simp] theorem State.flagThenResult_i (x : RegIdx) (o : AluOut) : (s.flagThenResult x o).i = s.i := rfl
@[simp] theorem State.flagThenResult_pc (x : RegIdx) (o : AluOut) : (s.flagThenResult x o).pc = s.pc := rfl
@[simp] theorem State.flagThenResult_sp (x : RegIdx) (o : AluOut) : (s.flagThenResult x o).sp = s.sp := rfl
@[simp] theorem State.flagThenResult_stack (x : RegIdx) (o : AluOut) : (s.flagThenResult x o).stack = s.stack := rfl
@[simp] theorem State.flagThenResult_dt (x : RegIdx) (o : AluOut) : (s.flagThenResult x o).dt = s.dt := rfl
@[simp] theorem State.flagThenResult_st (x : RegIdx) (o : AluOut) : (s.flagThenResult x o).st = s.st := rfl
@[simp] theorem State.flagThenResult_key (x : RegIdx) (o : AluOut) : (s.flagThenResult x o).key = s.key := rfl
@[simp] theorem State.flagThenResult_fb (x : RegIdx) (o : AluOut) : (s.flagThenResult x o).fb = s.fb := rfl
@[simp] theorem State.flagThenResult_status (x : RegIdx) (o : AluOut) : (s.flagThenResult x o).status = s.status := rfl
@[simp] theorem State.flagThenResult_draws (x : RegIdx) (o : AluOut) : (s.flagThenResult x o).draws = s.draws := rfl
@[simp] theorem State.flagThenResult_config (x : RegIdx) (o : AluOut) : (s.flagThenResult x o).config = s.config := rfl
@[simp] theorem State.flagThenResult_readByte (x : RegIdx) (o : AluOut) (k : Nat) : (s.flagThenResult x o).readByte k = s.readByte k := rfl
@[simp] theorem State.writeResultAndFlag_mem (x : RegIdx) (o : AluOut) :
    (s.writeResultAndFlag x o).mem = s.mem := by
  unfold State.writeResultAndFlag; split <;> rfl
@[simp] theorem State.writeResultAndFlag_i (x : RegIdx) (o : AluOut) :
    (s.writeResultAndFlag x o).i = s.i := by
  unfold State.writeResultAndFlag; split <;> rfl
@[simp] theorem State.writeResultAndFlag_pc (x : RegIdx) (o : AluOut) :
    (s.writeResultAndFlag x o).pc = s.pc := by
  unfold State.writeResultAndFlag; split <;> rfl
@[simp] theorem State.writeResultAndFlag_sp (x : RegIdx) (o : AluOut) :
    (s.writeResultAndFlag x o).sp = s.sp := by
  unfold State.writeResultAndFlag; split <;> rfl
@[simp] theorem State.writeResultAndFlag_stack (x : RegIdx) (o : AluOut) :
    (s.writeResultAndFlag x o).stack = s.stack := by
  unfold State.writeResultAndFlag; split <;> rfl
@[simp] theorem State.writeResultAndFlag_dt (x : RegIdx) (o : AluOut) :
    (s.writeResultAndFlag x o).dt = s.dt := by
  unfold State.writeResultAndFlag; split <;> rfl
@[simp] theorem State.writeResultAndFlag_st (x : RegIdx) (o : AluOut) :
    (s.writeResultAndFlag x o).st = s.st := by
  unfold State.writeResultAndFlag; split <;> rfl
@[simp] theorem State.writeResultAndFlag_key (x : RegIdx) (o : AluOut) :
    (s.writeResultAndFlag x o).key = s.key := by
  unfold State.writeResultAndFlag; split <;> rfl
@[simp] theorem State.writeResultAndFlag_fb (x : RegIdx) (o : AluOut) :
    (s.writeResultAndFlag x o).fb = s.fb := by
  unfold State.writeResultAndFlag; split <;> rfl
@[simp] theorem State.writeResultAndFlag_status (x : RegIdx) (o : AluOut) :
    (s.writeResultAndFlag x o).status = s.status := by
  unfold State.writeResultAndFlag; split <;> rfl
@[simp] theorem State.writeResultAndFlag_draws (x : RegIdx) (o : AluOut) :
    (s.writeResultAndFlag x o).draws = s.draws := by
  unfold State.writeResultAndFlag; split <;> rfl
@[simp] theorem State.writeResultAndFlag_config (x : RegIdx) (o : AluOut) :
    (s.writeResultAndFlag x o).config = s.config := by
  unfold State.writeResultAndFlag; split <;> rfl
@[simp] theorem State.writeResultAndFlag_readByte (x : RegIdx) (o : AluOut) (k : Nat) :
    (s.writeResultAndFlag x o).readByte k = s.readByte k := by
  unfold State.writeResultAndFlag; split <;> rfl

/-- Vx first, then VF: with x = F the flag stays (41_alu.md R121). -/
theorem State.getV_resultThenFlag (x y : RegIdx) (o : AluOut) :
    (s.resultThenFlag x o).getV y = if y = 0xF then flagByte o.flag else if y = x then o.result else s.getV y := by
  simp [State.resultThenFlag, State.getV_setV]

/-- VF first, then Vx: with x = F the result stays (41_alu.md R121). -/
theorem State.getV_flagThenResult (x y : RegIdx) (o : AluOut) :
    (s.flagThenResult x o).getV y = if y = x then o.result else if y = 0xF then flagByte o.flag else s.getV y := by
  simp [State.flagThenResult, State.getV_setV]

/-- Everything `WriteResultAndFlag` does to the registers (41_alu.md R121). -/
theorem State.getV_writeResultAndFlag (x y : RegIdx) (o : AluOut) :
    (s.writeResultAndFlag x o).getV y =
      if y = x ∧ (x ≠ 0xF ∨ s.config.vfDest = .textual) then o.result
      else if y = 0xF then flagByte o.flag else s.getV y := by
  unfold State.writeResultAndFlag
  cases s.config.vfDest <;> simp only [State.getV_resultThenFlag, State.getV_flagThenResult]
  · by_cases h : y = x
    · subst h
      by_cases h1 : y = 15#4 <;> simp [h1]
    · simp [h]
  · simp

/-! ## Stack -/

@[simp] theorem State.top_eq (h : s.sp.val < 16) : s.top = s.stack[s.sp.val] := by simp [State.top, h]

/-- A return after a call pops what was pushed (40_control_flow.md R110). -/
theorem State.top_pop_push (a : Word) (h : s.sp.val < 16) : ((s.push a h).pop).top = a := by
  simp [State.top, State.pop, State.push, h]

end

/-! ## Keys -/

/-- A nonzero KEY has a pressed key below 16. -/
theorem exists_key {key : Word} (h : key ≠ 0) : ∃ k < 16, key.getLsbD k = true := by
  by_contra hc
  push Not at hc
  apply h
  apply BitVec.eq_of_getLsbD_eq
  intro k hk
  simpa using hc k hk

/-- The lowest key is pressed, and none below it is (44_keypad_timers.md R193). -/
theorem lowestKey_spec {key : Word} (h : key ≠ 0) :
    keyDown key (lowestKey key) = true ∧ ∀ k, k < (lowestKey key).toNat → key.getLsbD k = false := by
  obtain ⟨k, hk, hkd⟩ := exists_key h
  unfold lowestKey keyDown
  cases hf : (List.range 16).find? (fun k => key.getLsbD k) with
  | none =>
    rw [List.find?_eq_none] at hf
    exact absurd hkd (hf k (List.mem_range.2 hk))
  | some j =>
    rw [List.find?_range_eq_some] at hf
    obtain ⟨h1, h2, h3⟩ := hf
    have hj : j < 16 := List.mem_range.1 h2
    have e : (BitVec.ofNat 4 j).toNat = j := by simp; omega
    simp only [Option.getD_some, e]
    exact ⟨h1, fun k hk => by simpa using h3 k hk⟩

/-- Whatever the policy, the selected key is pressed (44_keypad_timers.md R193). -/
theorem keyDown_selectKey (c : Config) {key : Word} (h : key ≠ 0) : keyDown key (selectKey c key) = true := by
  unfold selectKey
  split
  · exact (lowestKey_spec h).1
  · split
    · assumption
    · exact (lowestKey_spec h).1

/-- The register names a key exactly when it is at most 0xF (44_keypad_timers.md R190). -/
theorem keyOperand_eq_some {b : Byte} {k : RegIdx} : keyOperand b = some k ↔ b.toNat ≤ 0xF ∧ k.toNat = b.toNat := by
  unfold keyOperand
  split
  · rename_i h
    have e : (BitVec.ofNat 4 b.toNat).toNat = b.toNat := by simp; omega
    constructor
    · intro hk; simp only [Option.some.injEq] at hk; subst hk; exact ⟨h, e⟩
    · rintro ⟨_, hk⟩; simp only [Option.some.injEq]; exact RegIdx.eq_of_toNat (by rw [e, hk])
  · rename_i h; simp [h]

theorem keyOperand_eq_none {b : Byte} : keyOperand b = none ↔ 0xF < b.toNat := by
  unfold keyOperand; split <;> simp <;> omega

/-! ## Operands -/

@[simp] theorem zextNnn_toNat (nnn : BitVec 12) : (zextNnn nnn).toNat = nnn.toNat := by
  have := nnn.isLt
  simp [zextNnn]; omega

@[simp] theorem zextByte_toNat (b : Byte) : (zextByte b).toNat = b.toNat := by
  have := b.isLt
  simp [zextByte]; omega

/-- The target of Bnnn does not wrap (40_control_flow.md R108). -/
theorem jumpV0Target_toNat (nnn : BitVec 12) (s : State) :
    (jumpV0Target nnn s).toNat = nnn.toNat + (s.getV 0).toNat := by
  have h1 := nnn.isLt
  have h2 := (s.getV 0).isLt
  simp only [jumpV0Target, BitVec.toNat_add, zextNnn_toNat, zextByte_toNat]
  omega

/-- A glyph address does not wrap (42_index_memory.md R152). -/
theorem glyphAddress_toNat (c : Config) (b : Byte) : (glyphAddress c b).toNat = c.fontBase.val + 5 * b.toNat := by
  have h1 := c.fontBase.isLt
  have h2 := b.isLt
  simp only [glyphAddress, BitVec.toNat_ofNat]
  omega

@[simp] theorem bcdDigits_length (b : Byte) : (bcdDigits b).length = 3 := rfl

@[simp] theorem State.regBytes_length (s : State) (x : RegIdx) : (s.regBytes x).length = blockLength x := by
  simp [State.regBytes]

theorem State.regBytes_getElem (s : State) (x : RegIdx) (k : Nat) (h : k < (s.regBytes x).length) :
    (s.regBytes x)[k] = s.getV (BitVec.ofNat 4 k) := by
  simp [State.regBytes]

theorem blockLength_le (x : RegIdx) : blockLength x ≤ 16 := by
  have := x.isLt
  unfold blockLength; omega

theorem rangeOk_iff {a len : Nat} : rangeOk a len = true ↔ a + len ≤ 4096 := by simp [rangeOk]

end Sys2Proof.Machine
end

