-- ==== Sys2Proof/Laws/Screen.lean ====
section
/-! SUPPORT. The laws of the framebuffer and the draw unit: what a drawing does to every pixel, and when it reports a
collision (43_display.md R171, R173, R174). -/

namespace Sys2Proof.Machine

theorem Screen.pixel_eq_false {f : Screen} {row col : Nat} (h : 32 ≤ row ∨ 64 ≤ col) : Screen.pixel f row col = false := by
  unfold Screen.pixel
  split
  · exact BitVec.getLsbD_of_ge _ _ (by omega)
  · rfl

theorem Screen.pixel_clear (row col : Nat) : Screen.pixel Screen.clear row col = false := by
  unfold Screen.pixel Screen.clear
  split <;> simp

/-- Two framebuffers with the same pixels are equal. -/
theorem Screen.ext_pixel {f g : Screen} (h : ∀ row col, row < 32 → col < 64 → Screen.pixel f row col = Screen.pixel g row col) :
    f = g := by
  refine Vector.ext (fun row hr => BitVec.eq_of_getLsbD_eq (fun col hc => ?_))
  simpa [Screen.pixel, hr] using h row col hr hc

/-- Everything a toggle does: the one pixel changes. -/
theorem Screen.pixel_toggle {f : Screen} {row col row' col' : Nat} (hr : row < 32) (hc : col < 64) :
    Screen.pixel (Screen.toggle f row col) row' col' = (Screen.pixel f row' col' ^^ (row' == row && col' == col)) := by
  unfold Screen.pixel Screen.toggle
  simp only [hr, dite_true]
  by_cases h : row' < 32
  · simp only [h, dite_true]
    by_cases e : row' = row
    · subst e
      by_cases e : col' = col
      · subst e; simp [hc]
      · simp [BitVec.getLsbD_xor, BitVec.getLsbD_twoPow, beq_eq_false_iff_ne.2 e, Ne.symm e]
    · have : row ≠ row' := fun x => e x.symm
      simp [Vector.getElem_set_ne, this, beq_eq_false_iff_ne.2 e]
  · have e : row' ≠ row := by omega
    simp [h, beq_eq_false_iff_ne.2 e]

theorem rowCovers_succ (b : Byte) (x0 k col : Nat) :
    rowCovers b x0 (k + 1) col = (rowCovers b x0 k col || (b.getLsbD (7 - k) && col == (x0 + k) % 64)) := by
  simp [rowCovers, List.range_succ]

theorem spriteCovers_succ (sprite : Nat → Byte) (x0 y0 n row col : Nat) :
    spriteCovers sprite x0 y0 (n + 1) row col =
      (spriteCovers sprite x0 y0 n row col || (row == (y0 + n) % 32 && rowCovers (sprite n) x0 8 col)) := by
  simp [spriteCovers, List.range_succ]

/-- The columns of one sprite row are distinct: column `k` has not been reached by the earlier bits. -/
theorem rowCovers_next {b : Byte} {x0 k : Nat} (hk : k < 8) : rowCovers b x0 k ((x0 + k) % 64) = false := by
  unfold rowCovers
  rw [List.any_eq_false]
  intro c hc
  have := List.mem_range.1 hc
  have : (x0 + k) % 64 ≠ (x0 + c) % 64 := by omega
  simp [this]

/-- The rows of a sprite are distinct: row `n` has not been reached by the earlier rows. -/
theorem spriteCovers_next {sprite : Nat → Byte} {x0 y0 n col : Nat} (hn : n < 32) :
    spriteCovers sprite x0 y0 n ((y0 + n) % 32) col = false := by
  unfold spriteCovers
  rw [List.any_eq_false]
  intro r hr
  have := List.mem_range.1 hr
  have : (y0 + n) % 32 ≠ (y0 + r) % 32 := by omega
  simp [this]

/-- What one sprite row does to every pixel. -/
theorem Drawing.pixel_drawCols (d : Drawing) (b : Byte) {row x0 k : Nat} (hr : row < 32) (row' col' : Nat) :
    Screen.pixel (d.drawCols b row x0 k).fb row' col' =
      (Screen.pixel d.fb row' col' ^^ (row' == row && (List.range k).foldl
        (fun acc c => acc ^^ (b.getLsbD (7 - c) && col' == (x0 + c) % 64)) false)) := by
  induction k with
  | zero => simp [Drawing.drawCols]
  | succ k ih =>
    simp only [Drawing.drawCols, List.range_succ, List.foldl_append, List.foldl_cons, List.foldl_nil]
    split
    · rename_i hb
      simp only [Drawing.plot, Screen.pixel_toggle hr (Nat.mod_lt _ (by decide : 0 < 64)), ih, hb, Bool.true_and]
      cases row' == row <;> simp
    · rename_i hb
      simp [ih, hb]

/-- Up to eight columns, the exclusive or over the bits is the cover: no pixel is met twice. -/
theorem foldl_xor_eq_rowCovers (b : Byte) (x0 col : Nat) {k : Nat} (hk : k ≤ 8) :
    (List.range k).foldl (fun acc c => acc ^^ (b.getLsbD (7 - c) && col == (x0 + c) % 64)) false =
      rowCovers b x0 k col := by
  induction k with
  | zero => rfl
  | succ k ih =>
    rw [List.range_succ, List.foldl_append, List.foldl_cons, List.foldl_nil, ih (by omega), rowCovers_succ]
    by_cases h : col = (x0 + k) % 64
    · rw [h, rowCovers_next (by omega)]; simp
    · simp [beq_eq_false_iff_ne.2 h]

/-- One whole sprite row: its set bits toggle their pixels. -/
theorem Drawing.pixel_drawRow (d : Drawing) (b : Byte) {row x0 : Nat} (hr : row < 32) {k : Nat} (hk : k ≤ 8)
    (row' col' : Nat) :
    Screen.pixel (d.drawCols b row x0 k).fb row' col' =
      (Screen.pixel d.fb row' col' ^^ (row' == row && rowCovers b x0 k col')) := by
  rw [Drawing.pixel_drawCols d b hr, foldl_xor_eq_rowCovers b x0 col' hk]

/-- The set bits of a row over pixels that are on. -/
theorem Drawing.collide_drawCols (d : Drawing) (b : Byte) {row x0 : Nat} (hr : row < 32) {k : Nat} (hk : k ≤ 8) :
    (d.drawCols b row x0 k).collide =
      (d.collide || (List.range k).any (fun c => b.getLsbD (7 - c) && Screen.pixel d.fb row ((x0 + c) % 64))) := by
  induction k with
  | zero => simp [Drawing.drawCols]
  | succ k ih =>
    have ih := ih (by omega)
    simp only [Drawing.drawCols, List.range_succ, List.any_append, List.any_cons, List.any_nil, Bool.or_false]
    split
    · rename_i hb
      have hp : Screen.pixel (d.drawCols b row x0 k).fb row ((x0 + k) % 64) = Screen.pixel d.fb row ((x0 + k) % 64) := by
        rw [Drawing.pixel_drawRow d b hr (by omega), rowCovers_next (by omega)]; simp
      simp [Drawing.plot, ih, hp, hb, Bool.or_assoc]
    · rename_i hb
      simp [ih, hb]

/-- What a sprite of up to 32 rows does to every pixel: those under a set bit are toggled (43_display.md R171, R174). -/
theorem Drawing.pixel_drawRows (d : Drawing) (sprite : Nat → Byte) {x0 y0 n : Nat} (hn : n ≤ 32) (row col : Nat) :
    Screen.pixel (d.drawRows sprite x0 y0 n).fb row col =
      (Screen.pixel d.fb row col ^^ spriteCovers sprite x0 y0 n row col) := by
  induction n with
  | zero => simp [Drawing.drawRows, spriteCovers]
  | succ n ih =>
    rw [Drawing.drawRows, Drawing.pixel_drawRow _ _ (Nat.mod_lt _ (by decide)) (le_refl 8), ih (by omega),
      spriteCovers_succ]
    by_cases h : row = (y0 + n) % 32
    · subst h; rw [spriteCovers_next (by omega)]; simp
    · simp [beq_eq_false_iff_ne.2 h]

/-- A sprite collides when a set bit lies over a pixel that was on before the draw (43_display.md R173). -/
theorem Drawing.collide_drawRows (d : Drawing) (sprite : Nat → Byte) {x0 y0 n : Nat} (hn : n ≤ 32) :
    (d.drawRows sprite x0 y0 n).collide =
      (d.collide || (List.range n).any (fun r => (List.range 8).any (fun c =>
        (sprite r).getLsbD (7 - c) && Screen.pixel d.fb ((y0 + r) % 32) ((x0 + c) % 64)))) := by
  induction n with
  | zero => simp [Drawing.drawRows]
  | succ n ih =>
    have ih := ih (by omega)
    have hp : ∀ col, Screen.pixel (d.drawRows sprite x0 y0 n).fb ((y0 + n) % 32) col =
        Screen.pixel d.fb ((y0 + n) % 32) col := by
      intro col
      rw [Drawing.pixel_drawRows d sprite (by omega), spriteCovers_next (by omega)]; simp
    rw [Drawing.drawRows, Drawing.collide_drawCols _ _ (Nat.mod_lt _ (by decide)) (le_refl 8), ih]
    simp only [List.range_succ, List.any_append, List.any_cons, List.any_nil, Bool.or_false, hp, Bool.or_assoc]

/-- A set bit over a pixel that was on, said over the pixels instead of over the bits. -/
theorem any_bit_iff_any_pixel (f : Screen) (sprite : Nat → Byte) (x0 y0 n : Nat) :
    ((List.range n).any (fun r => (List.range 8).any (fun c =>
        (sprite r).getLsbD (7 - c) && Screen.pixel f ((y0 + r) % 32) ((x0 + c) % 64))) = true) ↔
      ∃ row col, row < 32 ∧ col < 64 ∧ spriteCovers sprite x0 y0 n row col = true ∧ Screen.pixel f row col = true := by
  simp only [List.any_eq_true, List.mem_range, Bool.and_eq_true, spriteCovers, rowCovers, beq_iff_eq]
  constructor
  · rintro ⟨r, hr, c, hc, hb, hp⟩
    exact ⟨_, _, Nat.mod_lt _ (by decide), Nat.mod_lt _ (by decide), ⟨r, hr, rfl, c, hc, hb, rfl⟩, hp⟩
  · rintro ⟨row, col, _, _, ⟨r, hr, rfl, c, hc, hb, rfl⟩, hp⟩
    exact ⟨r, hr, c, hc, hb, hp⟩

/-- What Dxyn's drawing does to every pixel. -/
theorem State.pixel_drawSprite (s : State) (x y : RegIdx) (n : BitVec 4) (row col : Nat) :
    Screen.pixel (s.drawSprite x y n.toNat).fb row col =
      (Screen.pixel s.fb row col ^^ s.spriteOver x y n row col) := by
  have := n.isLt
  exact Drawing.pixel_drawRows { fb := s.fb, collide := false } _ (by omega) row col

/-- When Dxyn's drawing collides. -/
theorem State.collide_drawSprite (s : State) (x y : RegIdx) (n : BitVec 4) :
    ((s.drawSprite x y n.toNat).collide = true) ↔
      ∃ row col, row < 32 ∧ col < 64 ∧ s.spriteOver x y n row col = true ∧ Screen.pixel s.fb row col = true := by
  have := n.isLt
  rw [State.drawSprite, Drawing.collide_drawRows _ _ (by omega), Bool.false_or]
  exact any_bit_iff_any_pixel ..

/-- A pixel under a sprite lies on the screen. -/
theorem State.spriteOver_range {s : State} {x y : RegIdx} {n : BitVec 4} {row col : Nat}
    (h : s.spriteOver x y n row col = true) : row < 32 ∧ col < 64 := by
  simp only [State.spriteOver, spriteCovers, rowCovers, List.any_eq_true, Bool.and_eq_true, beq_iff_eq] at h
  obtain ⟨r, _, hrow, c, _, _, hcol⟩ := h
  omega

/-- A sprite with a byte that is not zero lies over some pixel. -/
theorem State.exists_spriteOver {s : State} (x y : RegIdx) {n : BitVec 4} {r : Nat} (hr : r < n.toNat)
    (hb : s.readByte (s.i.toNat + r) ≠ 0x00) : ∃ row col, s.spriteOver x y n row col = true := by
  obtain ⟨c, hc, hbit⟩ : ∃ c < 8, (s.readByte (s.i.toNat + r)).getLsbD (7 - c) = true := by
    by_contra hnone
    refine hb (BitVec.eq_of_getLsbD_eq fun k hk => ?_)
    have hk' := not_exists.1 hnone (7 - k)
    rw [show 7 - (7 - k) = k by omega] at hk'
    simpa [show 7 - k < 8 by omega] using hk'
  refine ⟨((s.getV y).toNat % 32 + r) % 32, ((s.getV x).toNat % 64 + c) % 64, ?_⟩
  simp only [State.spriteOver, spriteCovers, rowCovers, List.any_eq_true, Bool.and_eq_true, beq_iff_eq]
  exact ⟨r, List.mem_range.2 hr, rfl, c, List.mem_range.2 hc, hbit, rfl⟩

/-- `fb_out`, bit by bit (43_display.md R172). -/
theorem Screen.getLsbD_out (f : Screen) {row col : Nat} (hr : row < 32) (hc : col < 64) :
    (Screen.out f).getLsbD (row * 64 + col) = Screen.pixel f row col := by
  have h : row * 64 + col < 2048 := by omega
  have h1 : (row * 64 + col) / 64 = row := by omega
  have h2 : (row * 64 + col) % 64 = col := by omega
  simp [Screen.out, h, h1, h2]

end Sys2Proof.Machine
end

