-- ==== Sys2Proof/Laws/Exec.lean ====
section
/-! SUPPORT. The meanings of the instructions that can fault, by case: each lemma says which condition leads to which
next state, so that later proofs cite it instead of unfolding the meaning. -/

namespace Sys2Proof.Machine
variable (s : State)

theorem raise_eq (f : FaultCode) (op : Word) : raise f op s = .next (s.latch f (s.pc - 2) op) := rfl

/-- A raised fault is the fault of the instruction at PC - 2, and nothing but STATUS is written. -/
theorem takesFault_latch (f : FaultCode) (op : Word) : TakesFault f op s (s.latch f (s.pc - 2) op) := by
  refine ⟨rfl, fun p hp => ?_⟩
  cases p <;> first | exact absurd (List.mem_singleton.2 rfl) hp | (intro; rfl) | rfl

theorem execRet_of_empty (h : s.sp.val = 0) : execRet s = .next (s.latch .stackUnderflow (s.pc - 2) 0x00EE) := by
  simp [execRet, h, raise, encode]

theorem execRet_of_nonempty (h : 0 < s.sp.val) :
    execRet s = .next (s.pop.jump (s.stack[s.sp.val - 1]'(by have := s.sp.isLt; omega))) := by
  have := s.sp.isLt
  have h16 : s.sp.val - 1 < 16 := by omega
  simp [execRet, Nat.pos_iff_ne_zero.1 h, State.top, h16]

theorem execCall_of_room (nnn : BitVec 12) (h : s.sp.val < 16) :
    execCall nnn s = .next ((s.push s.pc h).jump (zextNnn nnn)) := by
  simp [execCall, h]

theorem execCall_of_full (nnn : BitVec 12) (h : ¬s.sp.val < 16) :
    execCall nnn s = .next (s.latch .stackOverflow (s.pc - 2) (encode (.call nnn))) := by
  simp [execCall, h, raise]

theorem execLdBX_of_ok (x : RegIdx) (h : s.i.toNat + 3 ≤ 4096) :
    execLdBX x s = .next (s.writeBytes s.i.toNat (bcdDigits (s.getV x))) := by
  simp [execLdBX, rangeOk, State.base, h]

theorem execLdBX_of_out (x : RegIdx) (h : ¬s.i.toNat + 3 ≤ 4096) :
    execLdBX x s = .next (s.latch .outOfBounds (s.pc - 2) (encode (.ldBX x))) := by
  simp [execLdBX, rangeOk, State.base, h, raise]

theorem execLdMemX_of_ok (x : RegIdx) (h : s.i.toNat + (x.toNat + 1) ≤ 4096) :
    execLdMemX x s = .next (s.writeBytes s.i.toNat (s.regBytes x)) := by
  simp [execLdMemX, rangeOk, State.base, blockLength, h]

theorem execLdMemX_of_out (x : RegIdx) (h : ¬s.i.toNat + (x.toNat + 1) ≤ 4096) :
    execLdMemX x s = .next (s.latch .outOfBounds (s.pc - 2) (encode (.ldMemX x))) := by
  simp [execLdMemX, rangeOk, State.base, blockLength, h, raise]

theorem execLdXMem_of_ok (x : RegIdx) (h : s.i.toNat + (x.toNat + 1) ≤ 4096) :
    execLdXMem x s = .next (s.loadRegs s.i.toNat (x.toNat + 1)) := by
  simp [execLdXMem, rangeOk, State.base, blockLength, h]

theorem execLdXMem_of_out (x : RegIdx) (h : ¬s.i.toNat + (x.toNat + 1) ≤ 4096) :
    execLdXMem x s = .next (s.latch .outOfBounds (s.pc - 2) (encode (.ldXMem x))) := by
  simp [execLdXMem, rangeOk, State.base, blockLength, h, raise]

theorem execDrw_of_ok (x y : RegIdx) (n : BitVec 4) (h : s.i.toNat + n.toNat ≤ 4096) :
    execDrw x y n s = .next ((s.setFb (s.drawSprite x y n.toNat).fb).setV 0xF
      (flagByte (s.drawSprite x y n.toNat).collide)) := by
  simp [execDrw, rangeOk, State.base, h]

theorem execDrw_of_out (x y : RegIdx) (n : BitVec 4) (h : ¬s.i.toNat + n.toNat ≤ 4096) :
    execDrw x y n s = .next (s.latch .outOfBounds (s.pc - 2) (encode (.drw x y n))) := by
  simp [execDrw, rangeOk, State.base, h, raise]

theorem execSkp_of_key (x k : RegIdx) (h : k.toNat = (s.getV x).toNat) :
    execSkp x s = .next (s.skipIf (keyDown s.key k)) := by
  have hk := k.isLt
  have : keyOperand (s.getV x) = some k := keyOperand_eq_some.2 ⟨by omega, h⟩
  simp [execSkp, this]

theorem execSkp_of_out (x : RegIdx) (h : 0xF < (s.getV x).toNat) :
    execSkp x s = .next (s.latch .outOfBounds (s.pc - 2) (encode (.skp x))) := by
  simp [execSkp, keyOperand_eq_none.2 h, raise]

theorem execSknp_of_key (x k : RegIdx) (h : k.toNat = (s.getV x).toNat) :
    execSknp x s = .next (s.skipIf (!keyDown s.key k)) := by
  have hk := k.isLt
  have : keyOperand (s.getV x) = some k := keyOperand_eq_some.2 ⟨by omega, h⟩
  simp [execSknp, this]

theorem execSknp_of_out (x : RegIdx) (h : 0xF < (s.getV x).toNat) :
    execSknp x s = .next (s.latch .outOfBounds (s.pc - 2) (encode (.sknp x))) := by
  simp [execSknp, keyOperand_eq_none.2 h, raise]

theorem execLdXK_of_none (x : RegIdx) (h : s.key = 0) : execLdXK x s = .next s.rewind := by
  simp [execLdXK, h]

theorem execLdXK_of_key (x : RegIdx) (h : s.key ≠ 0) :
    execLdXK x s = .next (s.setV x ((selectKey s.config s.key).zeroExtend 8)) := if_neg h

end Sys2Proof.Machine
end

