-- ==== Sys2Proof/Laws/PerInstr.lean ====
section
/-! SUPPORT. The per-instruction family MatchesTableRow: every instruction's word has the match value of its row of
opcode_table.json under the row's mask. The masks and match values are written here from the table, apart from the
encoder. -/

namespace Sys2Proof.Laws

/-- The row's mask in opcode_table.json. -/
def tableMask : Instr → Word
  | .sys _ => 0xF000
  | .cls => 0xFFFF
  | .ret => 0xFFFF
  | .jp _ => 0xF000
  | .call _ => 0xF000
  | .seKk _ _ => 0xF000
  | .sneKk _ _ => 0xF000
  | .seXy _ _ => 0xF00F
  | .ldKk _ _ => 0xF000
  | .addKk _ _ => 0xF000
  | .ldXy _ _ => 0xF00F
  | .or _ _ => 0xF00F
  | .and _ _ => 0xF00F
  | .xor _ _ => 0xF00F
  | .addXy _ _ => 0xF00F
  | .sub _ _ => 0xF00F
  | .shr _ _ => 0xF00F
  | .subn _ _ => 0xF00F
  | .shl _ _ => 0xF00F
  | .sneXy _ _ => 0xF00F
  | .ldI _ => 0xF000
  | .jpV0 _ => 0xF000
  | .rnd _ _ => 0xF000
  | .drw _ _ _ => 0xF000
  | .skp _ => 0xF0FF
  | .sknp _ => 0xF0FF
  | .ldXDt _ => 0xF0FF
  | .ldXK _ => 0xF0FF
  | .ldDtX _ => 0xF0FF
  | .ldStX _ => 0xF0FF
  | .addIX _ => 0xF0FF
  | .ldFX _ => 0xF0FF
  | .ldBX _ => 0xF0FF
  | .ldMemX _ => 0xF0FF
  | .ldXMem _ => 0xF0FF

/-- The row's match value in opcode_table.json. -/
def tableMatch : Instr → Word
  | .sys _ => 0x0000
  | .cls => 0x00E0
  | .ret => 0x00EE
  | .jp _ => 0x1000
  | .call _ => 0x2000
  | .seKk _ _ => 0x3000
  | .sneKk _ _ => 0x4000
  | .seXy _ _ => 0x5000
  | .ldKk _ _ => 0x6000
  | .addKk _ _ => 0x7000
  | .ldXy _ _ => 0x8000
  | .or _ _ => 0x8001
  | .and _ _ => 0x8002
  | .xor _ _ => 0x8003
  | .addXy _ _ => 0x8004
  | .sub _ _ => 0x8005
  | .shr _ _ => 0x8006
  | .subn _ _ => 0x8007
  | .shl _ _ => 0x800E
  | .sneXy _ _ => 0x9000
  | .ldI _ => 0xA000
  | .jpV0 _ => 0xB000
  | .rnd _ _ => 0xC000
  | .drw _ _ _ => 0xD000
  | .skp _ => 0xE09E
  | .sknp _ => 0xE0A1
  | .ldXDt _ => 0xF007
  | .ldXK _ => 0xF00A
  | .ldDtX _ => 0xF015
  | .ldStX _ => 0xF018
  | .addIX _ => 0xF01E
  | .ldFX _ => 0xF029
  | .ldBX _ => 0xF033
  | .ldMemX _ => 0xF055
  | .ldXMem _ => 0xF065

theorem and_nibble (k : BitVec 4) : k &&& 15#4 = k := by revert k; decide

theorem and_byte (b : Byte) : b &&& 255#8 = b := by revert b; decide

theorem wordNnn_masked (k : BitVec 4) (a : BitVec 12) : wordNnn k a &&& 0xF000 = wordNnn k 0 := by
  rw [show (0xF000 : Word) = wordNnn 0xF 0 from rfl]
  unfold wordNnn
  rw [BitVec.and_append]
  simp [and_nibble]

theorem wordXkk_masked_family (k x : BitVec 4) (b : Byte) : wordXkk k x b &&& 0xF000 = wordXkk k 0 0 := by
  rw [show (0xF000 : Word) = wordXkk 0xF 0 0 from rfl]
  unfold wordXkk
  rw [BitVec.and_append, BitVec.and_append]
  simp [and_nibble]

theorem wordXkk_masked_byte (k x : BitVec 4) (b : Byte) : wordXkk k x b &&& 0xF0FF = wordXkk k 0 b := by
  rw [show (0xF0FF : Word) = wordXkk 0xF 0 0xFF from rfl]
  unfold wordXkk
  rw [BitVec.and_append, BitVec.and_append]
  simp [and_nibble, and_byte]

theorem wordXyn_masked_family (k x y n : BitVec 4) : wordXyn k x y n &&& 0xF000 = wordXyn k 0 0 0 := by
  rw [show (0xF000 : Word) = wordXyn 0xF 0 0 0 from rfl]
  unfold wordXyn
  rw [BitVec.and_append, BitVec.and_append, BitVec.and_append]
  simp [and_nibble]

theorem wordXyn_masked_nibble (k x y n : BitVec 4) : wordXyn k x y n &&& 0xF00F = wordXyn k 0 0 n := by
  rw [show (0xF00F : Word) = wordXyn 0xF 0 0 0xF from rfl]
  unfold wordXyn
  rw [BitVec.and_append, BitVec.and_append, BitVec.and_append]
  simp [and_nibble]

/-- The word of the instruction is a word of its table row. -/
def MatchesTableRow.Statement (i : Instr) : Prop := encode i &&& tableMask i = tableMatch i

theorem MatchesTableRow.sys (nnn : BitVec 12) : MatchesTableRow.Statement (.sys nnn) := wordNnn_masked ..
theorem MatchesTableRow.cls : MatchesTableRow.Statement (.cls) := rfl
theorem MatchesTableRow.ret : MatchesTableRow.Statement (.ret) := rfl
theorem MatchesTableRow.jp (nnn : BitVec 12) : MatchesTableRow.Statement (.jp nnn) := wordNnn_masked ..
theorem MatchesTableRow.call (nnn : BitVec 12) : MatchesTableRow.Statement (.call nnn) := wordNnn_masked ..
theorem MatchesTableRow.seKk (x : RegIdx) (kk : Byte) : MatchesTableRow.Statement (.seKk x kk) := wordXkk_masked_family ..
theorem MatchesTableRow.sneKk (x : RegIdx) (kk : Byte) : MatchesTableRow.Statement (.sneKk x kk) := wordXkk_masked_family ..
theorem MatchesTableRow.seXy (x y : RegIdx) : MatchesTableRow.Statement (.seXy x y) := wordXyn_masked_nibble ..
theorem MatchesTableRow.ldKk (x : RegIdx) (kk : Byte) : MatchesTableRow.Statement (.ldKk x kk) := wordXkk_masked_family ..
theorem MatchesTableRow.addKk (x : RegIdx) (kk : Byte) : MatchesTableRow.Statement (.addKk x kk) := wordXkk_masked_family ..
theorem MatchesTableRow.ldXy (x y : RegIdx) : MatchesTableRow.Statement (.ldXy x y) := wordXyn_masked_nibble ..
theorem MatchesTableRow.or (x y : RegIdx) : MatchesTableRow.Statement (.or x y) := wordXyn_masked_nibble ..
theorem MatchesTableRow.and (x y : RegIdx) : MatchesTableRow.Statement (.and x y) := wordXyn_masked_nibble ..
theorem MatchesTableRow.xor (x y : RegIdx) : MatchesTableRow.Statement (.xor x y) := wordXyn_masked_nibble ..
theorem MatchesTableRow.addXy (x y : RegIdx) : MatchesTableRow.Statement (.addXy x y) := wordXyn_masked_nibble ..
theorem MatchesTableRow.sub (x y : RegIdx) : MatchesTableRow.Statement (.sub x y) := wordXyn_masked_nibble ..
theorem MatchesTableRow.shr (x y : RegIdx) : MatchesTableRow.Statement (.shr x y) := wordXyn_masked_nibble ..
theorem MatchesTableRow.subn (x y : RegIdx) : MatchesTableRow.Statement (.subn x y) := wordXyn_masked_nibble ..
theorem MatchesTableRow.shl (x y : RegIdx) : MatchesTableRow.Statement (.shl x y) := wordXyn_masked_nibble ..
theorem MatchesTableRow.sneXy (x y : RegIdx) : MatchesTableRow.Statement (.sneXy x y) := wordXyn_masked_nibble ..
theorem MatchesTableRow.ldI (nnn : BitVec 12) : MatchesTableRow.Statement (.ldI nnn) := wordNnn_masked ..
theorem MatchesTableRow.jpV0 (nnn : BitVec 12) : MatchesTableRow.Statement (.jpV0 nnn) := wordNnn_masked ..
theorem MatchesTableRow.rnd (x : RegIdx) (kk : Byte) : MatchesTableRow.Statement (.rnd x kk) := wordXkk_masked_family ..
theorem MatchesTableRow.drw (x y : RegIdx) (n : BitVec 4) : MatchesTableRow.Statement (.drw x y n) := wordXyn_masked_family ..
theorem MatchesTableRow.skp (x : RegIdx) : MatchesTableRow.Statement (.skp x) := wordXkk_masked_byte ..
theorem MatchesTableRow.sknp (x : RegIdx) : MatchesTableRow.Statement (.sknp x) := wordXkk_masked_byte ..
theorem MatchesTableRow.ldXDt (x : RegIdx) : MatchesTableRow.Statement (.ldXDt x) := wordXkk_masked_byte ..
theorem MatchesTableRow.ldXK (x : RegIdx) : MatchesTableRow.Statement (.ldXK x) := wordXkk_masked_byte ..
theorem MatchesTableRow.ldDtX (x : RegIdx) : MatchesTableRow.Statement (.ldDtX x) := wordXkk_masked_byte ..
theorem MatchesTableRow.ldStX (x : RegIdx) : MatchesTableRow.Statement (.ldStX x) := wordXkk_masked_byte ..
theorem MatchesTableRow.addIX (x : RegIdx) : MatchesTableRow.Statement (.addIX x) := wordXkk_masked_byte ..
theorem MatchesTableRow.ldFX (x : RegIdx) : MatchesTableRow.Statement (.ldFX x) := wordXkk_masked_byte ..
theorem MatchesTableRow.ldBX (x : RegIdx) : MatchesTableRow.Statement (.ldBX x) := wordXkk_masked_byte ..
theorem MatchesTableRow.ldMemX (x : RegIdx) : MatchesTableRow.Statement (.ldMemX x) := wordXkk_masked_byte ..
theorem MatchesTableRow.ldXMem (x : RegIdx) : MatchesTableRow.Statement (.ldXMem x) := wordXkk_masked_byte ..

end Sys2Proof.Laws
end

