-- ==== Sys2Proof/Tests/Slice0.lean ====
section
/-! SUPPORT. The model's own tests. The words and expected values are the spec's: the encodings of the rules, the worked
examples and vectors of 95_test_vectors.md (their numbers stand in the docstrings). Then, for each statement with
hypotheses, a witness that meets them. -/

namespace Sys2Proof.Tests
open Sys2Proof.Machine

/-! ## Helpers -/

/-- The outcome is a next state with property `p`. -/
def nextIs (o : Result) (p : State → Bool) : Bool :=
  match o with
  | .next t => p t
  | _ => false

/-- One step of `s` with the word `w` at its PC. -/
def run (s : State) (w : Nat) : Result := step (s.withFetchWord 16 w)

/-- The reset state with some registers set. -/
def regs (l : List (RegIdx × Byte)) : State := l.foldl (fun s p => s.setV p.1 p.2) State.reset

/-- Three registers and PC after a step. -/
def regIs (x : RegIdx) (b : Byte) (pc : Word) (t : State) : Bool := t.getV x == b && t.pc == pc

/-- The status and PC after a faulting step. -/
def faultIs (f : FaultCode) (fpc fop pc : Word) (t : State) : Bool := t.status == ⟨f, fpc, fop⟩ && t.pc == pc

/-- The other VF_DEST_POLICY. -/
def textual (s : State) : State := { s with config := { s.config with vfDest := .textual } }

/-- The other SYS_POLICY. -/
def sysNop (s : State) : State := { s with config := { s.config with sysPolicy := .nop } }

/-- A full stack. -/
def fullStack : State := { State.reset with pc := 0x300, sp := 16 }

/-- A latched fault (E10). -/
def latched : State := { State.reset with pc := 0x202, status := ⟨.unknownOpcode, 0x200, 0xF0FF⟩ }

/-- PC at a given address. -/
def atPc (a : Word) : State := { State.reset with pc := a }

/-- I at a given address. -/
def atI (a : Word) (s : State) : State := { s with i := a }

/-- The given keys pressed. -/
def pressed (k : Word) (s : State) : State := { s with key := k }

/-! ## WellFormed refuses the two words SYS leaves out (40_control_flow.md R100) -/

theorem test_wf_refuses_sys_0E0 : (Instr.sys 0x0E0).notClsWord = false ∧ (Instr.sys 0x0E0).wf = false := by decide
theorem test_wf_refuses_sys_0EE : (Instr.sys 0x0EE).notRetWord = false ∧ (Instr.sys 0x0EE).wf = false := by decide
theorem test_wf_accepts_sys_0E1 : (Instr.sys 0x0E1).wf = true ∧ Instr.cls.wf = true ∧ Instr.ret.wf = true := by decide

/-! ## Decoding: every constructor, from the match values and formats of its rule (30_encoding.md R72) -/

theorem test_decode_bit_by_bit :
    decodeTableWord 16 0b0010001000010000 = some (.call 0b001000010000) ∧
    decodeTableWord 16 0b1000000110100110 = some (.shr 0b0001 0b1010) ∧
    decodeTableWord 16 0b1010000100100011 = some (.ldI 0b000100100011) ∧
    decodeTableWord 16 0b1101000100100101 = some (.drw 0b0001 0b0010 0b0101) ∧
    decodeTableWord 16 0b1110010110011110 = some (.skp 0b0101) ∧
    decodeTableWord 16 0b1111001100000111 = some (.ldXDt 0b0011) := by decide

theorem test_decode_control :
    decodeTableWord 16 0x0123 = some (.sys 0x123) ∧ decodeTableWord 16 0x00E1 = some (.sys 0x0E1) ∧
    decodeTableWord 16 0x00EE = some .ret ∧ decodeTableWord 16 0x1234 = some (.jp 0x234) ∧
    decodeTableWord 16 0x2210 = some (.call 0x210) ∧ decodeTableWord 16 0x3342 = some (.seKk 0x3 0x42) ∧
    decodeTableWord 16 0x4342 = some (.sneKk 0x3 0x42) ∧ decodeTableWord 16 0x5120 = some (.seXy 0x1 0x2) ∧
    decodeTableWord 16 0x9120 = some (.sneXy 0x1 0x2) ∧ decodeTableWord 16 0xB300 = some (.jpV0 0x300) := by decide

theorem test_decode_alu :
    decodeTableWord 16 0x6A5C = some (.ldKk 0xA 0x5C) ∧ decodeTableWord 16 0x7102 = some (.addKk 0x1 0x02) ∧
    decodeTableWord 16 0x8120 = some (.ldXy 0x1 0x2) ∧ decodeTableWord 16 0x8121 = some (.or 0x1 0x2) ∧
    decodeTableWord 16 0x8122 = some (.and 0x1 0x2) ∧ decodeTableWord 16 0x8123 = some (.xor 0x1 0x2) ∧
    decodeTableWord 16 0x8124 = some (.addXy 0x1 0x2) ∧ decodeTableWord 16 0x8125 = some (.sub 0x1 0x2) ∧
    decodeTableWord 16 0x81A6 = some (.shr 0x1 0xA) ∧ decodeTableWord 16 0x8127 = some (.subn 0x1 0x2) ∧
    decodeTableWord 16 0x810E = some (.shl 0x1 0x0) ∧ decodeTableWord 16 0xC30F = some (.rnd 0x3 0x0F) := by decide

theorem test_decode_index_display :
    decodeTableWord 16 0xA300 = some (.ldI 0x300) ∧ decodeTableWord 16 0xF21E = some (.addIX 0x2) ∧
    decodeTableWord 16 0xF029 = some (.ldFX 0x0) ∧ decodeTableWord 16 0xF033 = some (.ldBX 0x0) ∧
    decodeTableWord 16 0xF155 = some (.ldMemX 0x1) ∧ decodeTableWord 16 0xF265 = some (.ldXMem 0x2) ∧
    decodeTableWord 16 0x00E0 = some .cls ∧ decodeTableWord 16 0xD123 = some (.drw 0x1 0x2 0x3) := by decide

theorem test_decode_keypad_timers :
    decodeTableWord 16 0xE59E = some (.skp 0x5) ∧ decodeTableWord 16 0xE5A1 = some (.sknp 0x5) ∧
    decodeTableWord 16 0xF307 = some (.ldXDt 0x3) ∧ decodeTableWord 16 0xF10A = some (.ldXK 0x1) ∧
    decodeTableWord 16 0xF215 = some (.ldDtX 0x2) ∧ decodeTableWord 16 0xF218 = some (.ldStX 0x2) := by decide

/-- E6 to E9: the illegal spaces, each by its own name. -/
theorem test_decode_rejects :
    decodeWord 0x5121 = .error .family5 ∧ decodeWord 0x812F = .error .family8 ∧ decodeWord 0x8128 = .error .family8 ∧
    decodeWord 0x912F = .error .family9 ∧ decodeWord 0xE09F = .error .familyE ∧ decodeWord 0xF000 = .error .familyF ∧
    decode [0x12] = .error .truncated := by decide

/-! ## Fetch and faults (95_test_vectors.md 2.1) -/

/-- E2: an odd address. -/
theorem test_fetch_odd : nextIs (run (atPc 0x201) 0x1234) (fun t => t.pc == 0x234) = true := by decide
/-- E3: the last fetchable word. -/
theorem test_fetch_last : nextIs (run (atPc 0xFFE) 0x1200) (fun t => t.pc == 0x200) = true := by decide
/-- E4: PC = 0xFFF. -/
theorem test_fetch_out : nextIs (step (atPc 0xFFF)) (faultIs .outOfBounds 0xFFF 0 0xFFF) = true := by decide
/-- S9. -/
theorem test_unknown_opcode :
    nextIs (run State.reset 0xF0FF) (faultIs .unknownOpcode 0x200 0xF0FF 0x202) = true := by decide
/-- E10: a latched fault is a fixed point. -/
theorem test_latched_step : nextIs (step latched) (fun t => t == latched) = true := by decide
/-- E11 and E12. -/
theorem test_latched_tick_reset :
    (State.tickTimers (latched.setDt 5)).dt = 4 ∧ (State.tickTimers latched).status = latched.status ∧
    latched.hostReset = State.reset := by decide

/-! ## Control flow (95_test_vectors.md 2.2) -/

/-- CF17 and CF18. -/
theorem test_sys : nextIs (run State.reset 0x0000) (faultIs .unknownOpcode 0x200 0 0x202) = true ∧
    nextIs (run (sysNop State.reset) 0x0000) (faultIs .none 0 0 0x202) = true := by decide
/-- CF6. -/
theorem test_ret_empty : nextIs (run State.reset 0x00EE) (faultIs .stackUnderflow 0x200 0x00EE 0x202) = true := by decide
/-- CF7, cut down to two entries. -/
theorem test_ret : nextIs
    (run { State.reset with sp := 2, stack := (State.reset.stack.set 0 0x111).set 1 0x456 } 0x00EE)
    (fun t => t.pc == 0x456 && t.sp == 1 && t.stack[1] == 0x456) = true := by decide
/-- CF1. -/
theorem test_jp : nextIs (run State.reset 0x1234) (fun t => t.pc == 0x234) = true := by decide
/-- CF4. -/
theorem test_call : nextIs (run (atPc 0x204) 0x2210)
    (fun t => t.stack[0] == 0x206 && t.sp == 1 && t.pc == 0x210) = true := by decide
/-- CF5. -/
theorem test_call_full : nextIs (run fullStack 0x2300)
    (fun t => faultIs .stackOverflow 0x300 0x2300 0x302 t && t.sp == 16) = true := by decide
/-- CF8. -/
theorem test_se_kk : nextIs (run (regs [(3, 0x42)]) 0x3342) (fun t => t.pc == 0x204) = true ∧
    nextIs (run (regs [(3, 0x41)]) 0x3342) (fun t => t.pc == 0x202) = true := by decide
/-- CF9. -/
theorem test_sne_kk : nextIs (run (regs [(3, 0x42)]) 0x4342) (fun t => t.pc == 0x202) = true ∧
    nextIs (run (regs [(3, 0x41)]) 0x4342) (fun t => t.pc == 0x204) = true := by decide
/-- CF10. -/
theorem test_se_xy : nextIs (run (regs [(1, 7), (2, 7)]) 0x5120) (fun t => t.pc == 0x204) = true ∧
    nextIs (run (regs [(1, 7), (2, 8)]) 0x5120) (fun t => t.pc == 0x202) = true := by decide
/-- CF11 and CF12. -/
theorem test_sne_xy : nextIs (run (regs [(1, 7), (2, 8)]) 0x9120) (fun t => t.pc == 0x204) = true ∧
    nextIs (run (regs [(1, 7)]) 0x9110) (fun t => t.pc == 0x202) = true := by decide
/-- CF14 and CF15: the sum is not masked. -/
theorem test_jp_v0 : nextIs (run (regs [(0, 0xFF)]) 0xBFFF) (fun t => t.pc == 0x10FE) = true ∧
    nextIs (run (regs [(0, 0x01)]) 0xBFFF) (fun t => t.pc == 0x1000) = true := by decide

/-! ## ALU (95_test_vectors.md 2.3) -/

/-- A1. -/
theorem test_ld_kk : nextIs (run State.reset 0x6A5C) (regIs 0xA 0x5C 0x202) = true := by decide
/-- A2. -/
theorem test_add_kk : nextIs (run (regs [(1, 0xFF), (0xF, 0xAA)]) 0x7102)
    (fun t => regIs 1 0x01 0x202 t && t.getV 0xF == 0xAA) = true := by decide
/-- A4. -/
theorem test_ld_xy : nextIs (run (regs [(2, 0x33)]) 0x8120) (regIs 1 0x33 0x202) = true := by decide
/-- A5. -/
theorem test_or : nextIs (run (regs [(1, 0xF0), (2, 0x0F), (0xF, 0x55)]) 0x8121)
    (fun t => regIs 1 0xFF 0x202 t && t.getV 0xF == 0x55) = true := by decide
/-- A6. -/
theorem test_and : nextIs (run (regs [(1, 0xF0), (2, 0x3C), (0xF, 0x55)]) 0x8122)
    (fun t => regIs 1 0x30 0x202 t && t.getV 0xF == 0x55) = true := by decide
/-- A7. -/
theorem test_xor : nextIs (run (regs [(1, 0xF0), (2, 0x3C), (0xF, 0x55)]) 0x8123)
    (fun t => regIs 1 0xCC 0x202 t && t.getV 0xF == 0x55) = true := by decide
/-- S1. -/
theorem test_add_carry : nextIs (run (regs [(1, 0xFF), (2, 0x01)]) 0x8124)
    (fun t => regIs 1 0x00 0x202 t && t.getV 0xF == 1) = true := by decide
/-- A12 and A13: x = F, y = F. -/
theorem test_add_vf :
    nextIs (run (textual (regs [(0xF, 0xFF), (1, 0x01)])) 0x8F14) (regIs 0xF 0x01 0x202) = true ∧
    nextIs (run (regs [(0xF, 0xF0), (1, 0x10)]) 0x81F4) (fun t => t.getV 1 == 0 && t.getV 0xF == 1) = true := by decide
/-- S2. -/
theorem test_sub_borrow : nextIs (run (regs [(1, 0x05), (2, 0x0A)]) 0x8125)
    (fun t => regIs 1 0xFB 0x202 t && t.getV 0xF == 0) = true := by decide
/-- A16. -/
theorem test_sub_vf : nextIs (run (regs [(0xF, 0x05), (1, 0x03)]) 0x8F15) (regIs 0xF 0x01 0x202) = true ∧
    nextIs (run (textual (regs [(0xF, 0x05), (1, 0x03)])) 0x8F15) (regIs 0xF 0x02 0x202) = true := by decide
/-- A19: Vy is not read. -/
theorem test_shr : nextIs (run (regs [(1, 0xFF)]) 0x81A6)
    (fun t => regIs 1 0x7F 0x202 t && t.getV 0xF == 1) = true := by decide
/-- A20. -/
theorem test_shr_vf : nextIs (run (regs [(0xF, 0x06)]) 0x8F06) (regIs 0xF 0x00 0x202) = true ∧
    nextIs (run (textual (regs [(0xF, 0x06)])) 0x8F06) (regIs 0xF 0x03 0x202) = true := by decide
/-- A21. -/
theorem test_subn : nextIs (run (regs [(1, 0x0A), (2, 0x05)]) 0x8127)
    (fun t => regIs 1 0xFB 0x202 t && t.getV 0xF == 0) = true := by decide
/-- A24. -/
theorem test_subn_vf : nextIs (run (regs [(0xF, 0x03), (1, 0x05)]) 0x8F17) (regIs 0xF 0x01 0x202) = true ∧
    nextIs (run (textual (regs [(0xF, 0x03), (1, 0x05)])) 0x8F17) (regIs 0xF 0x02 0x202) = true := by decide
/-- A25. -/
theorem test_shl : nextIs (run (regs [(1, 0x81)]) 0x810E)
    (fun t => regIs 1 0x02 0x202 t && t.getV 0xF == 1) = true := by decide
/-- A28. -/
theorem test_shl_vf : nextIs (run (regs [(0xF, 0x81)]) 0x8F0E) (regIs 0xF 0x01 0x202) = true ∧
    nextIs (run (textual (regs [(0xF, 0x81)])) 0x8F0E) (regIs 0xF 0x02 0x202) = true := by decide
/-- A29: the draw of the vector given; and each Cxkk uses one draw up. -/
theorem test_rnd : (State.reset.loadDraw 0xA7 3 0x0F).getV 3 = 0x07 ∧
    nextIs (run State.reset 0xC30F) (fun t => t.draws == 1 && t.pc == 0x202 && t.getV 2 == 0) = true := by decide

/-! ## Index register and memory (95_test_vectors.md 2.4) -/

/-- M1. -/
theorem test_ld_i : nextIs (run State.reset 0xA300) (fun t => t.i == 0x300 && t.pc == 0x202) = true := by decide
/-- M2 and M3. -/
theorem test_add_i :
    nextIs (run (atI 0xFFF (regs [(2, 1), (0xF, 0x33)])) 0xF21E) (fun t => t.i == 0x1000 && t.getV 0xF == 0x33) = true ∧
    nextIs (run (atI 0xFFFF (regs [(2, 2)])) 0xF21E) (fun t => t.i == 0x0001) = true := by decide
/-- M4. -/
theorem test_ld_f : nextIs (run (regs [(0, 0x05)]) 0xF029) (fun t => t.i == 0x019) = true ∧
    nextIs (run (regs [(0, 0xFF)]) 0xF029) (fun t => t.i == 0x4FB) = true := by decide
/-- S7. -/
theorem test_ld_b : nextIs (run (atI 0x300 (regs [(0, 156)])) 0xF033)
    (fun t => t.readByte 0x300 == 1 && t.readByte 0x301 == 5 && t.readByte 0x302 == 6 && t.i == 0x300) = true := by decide
/-- M7. -/
theorem test_ld_b_out : nextIs (run (atI 0xFFE State.reset) 0xF033)
    (faultIs .outOfBounds 0x200 0xF033 0x202) = true := by decide
/-- M8. -/
theorem test_store_regs : nextIs (run (atI 0x300 (regs [(0, 0x11), (1, 0x22)])) 0xF155)
    (fun t => t.readByte 0x300 == 0x11 && t.readByte 0x301 == 0x22 && t.readByte 0x302 == 0 && t.i == 0x300) = true := by
  decide
/-- M10. -/
theorem test_store_regs_out : nextIs (run (atI 0xFF1 (regs [(0, 0x11)])) 0xFF55)
    (fun t => faultIs .outOfBounds 0x200 0xFF55 0x202 t && t.readByte 0xFF1 == 0) = true := by decide
/-- M12. -/
theorem test_load_regs : nextIs (run (atI 0x300 (State.reset.writeBytes 0x300 [1, 5, 6])) 0xF265)
    (fun t => t.getV 0 == 1 && t.getV 1 == 5 && t.getV 2 == 6 && t.getV 3 == 0 && t.i == 0x300) = true := by decide
/-- M13. -/
theorem test_load_regs_out : nextIs (run (atI 0x1000 (regs [(0, 9)])) 0xF065)
    (fun t => faultIs .outOfBounds 0x200 0xF065 0x202 t && t.getV 0 == 9) = true := by decide

/-! ## Display (95_test_vectors.md 2.5) -/

/-- D1. -/
theorem test_cls : nextIs (run { State.reset with fb := Screen.toggle State.reset.fb 3 4 } 0x00E0)
    (fun t => t.fb == State.reset.fb && t.pc == 0x202) = true := by decide
/-- D4: the row wraps from column 63 to column 0; bit c of a row is column c. -/
theorem test_draw_wraps :
    nextIs (run (atI 0x300 ((regs [(1, 0x3E), (2, 0x1F)]).writeByte 0x300 0xFF)) 0xD121)
      (fun t => t.fb[31] == 0xC00000000000003F && t.fb[0] == 0 && t.getV 0xF == 0) = true := by decide
/-- D10: a partial overlap. -/
theorem test_draw_collides :
    nextIs (run (atI 0x301 { State.reset.writeByte 0x301 0xC0 with fb := Screen.toggle State.reset.fb 0 0 }) 0xD121)
      (fun t => t.fb[0] == 2 && t.getV 0xF == 1) = true := by decide
/-- D8. -/
theorem test_draw_out : nextIs (run (atI 0xFFE (regs [(0xF, 7)])) 0xD123)
    (fun t => faultIs .outOfBounds 0x200 0xD123 0x202 t && t.getV 0xF == 7) = true := by decide

/-! ## Keypad and timers (95_test_vectors.md 2.6) -/

/-- K1. -/
theorem test_skp : nextIs (run (pressed 0x400 (regs [(5, 0xA)])) 0xE59E) (fun t => t.pc == 0x204) = true ∧
    nextIs (run (regs [(5, 0xA)]) 0xE59E) (fun t => t.pc == 0x202) = true := by decide
/-- K3. -/
theorem test_skp_out : nextIs (run (regs [(5, 0x10)]) 0xE59E) (faultIs .outOfBounds 0x200 0xE59E 0x202) = true := by
  decide
/-- K2. -/
theorem test_sknp : nextIs (run (pressed 0x400 (regs [(5, 0xA)])) 0xE5A1) (fun t => t.pc == 0x202) = true ∧
    nextIs (run (regs [(5, 0xA)]) 0xE5A1) (fun t => t.pc == 0x204) = true := by decide
/-- K4. -/
theorem test_sknp_out : nextIs (run (regs [(5, 0xFF)]) 0xE5A1) (faultIs .outOfBounds 0x200 0xE5A1 0x202) = true := by
  decide
/-- K5. -/
theorem test_ld_x_dt : nextIs (run (State.reset.setDt 0x3C) 0xF307) (regIs 3 0x3C 0x202) = true := by decide
/-- K6. -/
theorem test_ld_x_k_waits : nextIs (run State.reset 0xF10A) (fun t => t == State.reset.withFetchWord 16 0xF10A) = true := by
  decide
/-- K7. -/
theorem test_ld_x_k : nextIs (run (pressed 0x0090 State.reset) 0xF10A) (regIs 1 0x04 0x202) = true := by decide
/-- K9. -/
theorem test_ld_dt_x : nextIs (run (regs [(2, 0x3C)]) 0xF215) (fun t => t.dt == 0x3C && t.st == 0) = true := by decide
/-- K10. -/
theorem test_ld_st_x : nextIs (run (regs [(2, 0x05)]) 0xF218) (fun t => t.st == 5 && t.soundOn && t.dt == 0) = true := by
  decide
/-- K11 and K12. -/
theorem test_tick : tickTimer 0x3C = 0x3B ∧ tickTimer 0x00 = 0x00 ∧ tickTimer 0x01 = 0x00 := by decide

/-! ## Witnesses: concrete states and operands that meet the hypotheses of the statements -/

theorem witness_HostReset_font_bounds :
    State.reset.config.fontBase.val ≤ 79 ∧ 79 < State.reset.config.fontBase.val + 80 ∧
    ¬80 < State.reset.config.fontBase.val + 80 := by decide

/-- All four ways of a step: latched, out of range at the first such PC, a legal word at the last fetchable PC, an
illegal word. -/
theorem witness_StepRuns :
    latched.status.code ≠ .none ∧ ((atPc 0xFFF).status.code = .none ∧ 0x0FFE < (atPc 0xFFF).pc.toNat) ∧
    (AtWord 0x1200 ((atPc 0xFFE).withFetchWord 16 0x1200) ∧ decodeWord 0x1200 = .ok (.jp 0x200)) ∧
    (AtWord 0xF0FF (State.reset.withFetchWord 16 0xF0FF) ∧ decodeWord 0xF0FF = .error .familyF) := by
  unfold AtWord; decide

theorem witness_DecodeOfEncode : (Instr.sys 0xFFF).wf = true ∧ (Instr.shr 0xF 0xF).wf = true := by decide

theorem witness_EncodeOfDecode : decodeWord 0x00EE = .ok .ret ∧ decodeWord 0x0FFF = .ok (.sys 0xFFF) := by decide

theorem witness_Sys : State.reset.config.sysPolicy = .fault ∧ (sysNop State.reset).config.sysPolicy = .nop := by decide

theorem witness_Ret : State.reset.sp.val = 0 ∧ ({ State.reset with sp := 1 } : State).sp.val = 0 + 1 ∧
    fullStack.sp.val = 15 + 1 := by decide

theorem witness_Call : fullStack.sp.val = 16 ∧ ({ State.reset with sp := 15 } : State).sp.val < 16 ∧
    State.reset.sp.val < 16 := by decide

theorem witness_SkipsOnAnImmediate : State.reset.getV 3 = 0x00 ∧ State.reset.getV 3 ≠ 0xFF := by decide

theorem witness_SkipsOnTwoRegisters :
    State.reset.getV 1 = State.reset.getV 2 ∧ (regs [(1, 7)]).getV 1 ≠ (regs [(1, 7)]).getV 2 := by decide

theorem witness_CallThenReturn : State.reset.sp.val < 16 ∧ ({ State.reset with sp := 15 } : State).sp.val < 16 := by
  decide

theorem witness_SixteenCalls : State.reset.sp.val = 0 ∧ State.reset.status.code = .none ∧
    (List.replicate 16 (0x200#12)).length ≤ 16 ∧ (List.replicate 17 (0x200#12)).length = 17 := by decide

/-- Both policies with x = F, and x other than F: the cases of ResultAndFlagWritten, and of AddGives with both flags. -/
theorem witness_ResultAndFlag : (0x1 : RegIdx) ≠ 0xF ∧ State.reset.config.vfDest = .flagLast ∧
    (textual State.reset).config.vfDest = .textual ∧
    ((regs [(1, 0xFF), (2, 1)]).getV 1).toNat + ((regs [(1, 0xFF), (2, 1)]).getV 2).toNat > 255 := by decide

theorem witness_PolicyMatters : (∀ y, Instr.sub 0x1 0x2 ≠ .sub 0xF y ∧ Instr.sub 0x1 0x2 ≠ .shr 0xF y ∧
    Instr.sub 0x1 0x2 ≠ .subn 0xF y ∧ Instr.sub 0x1 0x2 ≠ .shl 0xF y) ∧ ∃ t, exec (.sub 0x1 0x2) State.reset = .next t :=
  ⟨by intro y; simp, _, rfl⟩

theorem witness_Random : (0x00 : Byte) = 0x00 ∧ (0xFF : Byte) = 0xFF := by decide

theorem witness_VfWriters : ∃ t, exec (.sub 0x1 0x2) State.reset = .next t ∧ t.getV 0xF ≠ State.reset.getV 0xF :=
  ⟨_, rfl, by decide⟩

theorem witness_TableRegistersWritten :
    ∃ t, exec (.ldXMem 0x3) State.reset = .next t ∧ (0x4 : RegIdx) ∉ tableWrites (.ldXMem 0x3) :=
  ⟨_, rfl, by decide⟩

theorem witness_TableRegistersRead : (0x4 : RegIdx) ∉ tableReads (.ldMemX 0x3) ∧ (0xA : RegIdx) ∉ tableReads (.shr 0x1 0xA) := by
  decide

theorem witness_StoreBcd : (atI 0xFFD State.reset).i.toNat + 3 ≤ 4096 ∧ 4096 < (atI 0xFFE State.reset).i.toNat + 3 := by
  decide

/-- For the stores and for the loads of V0 to VF. -/
theorem witness_RegisterBlocks : (atI 0xFF0 State.reset).i.toNat + (0xF : RegIdx).toNat + 1 ≤ 4096 ∧
    4096 < (atI 0xFF1 State.reset).i.toNat + (0xF : RegIdx).toNat + 1 := by decide

theorem witness_StoredWord : 1 ≤ (0x1 : RegIdx).toNat ∧ (atI 0xFFE (atPc 0xFFE)).i = (atI 0xFFE (atPc 0xFFE)).pc ∧
    (atI 0xFFE (atPc 0xFFE)).pc.toNat + (0x1 : RegIdx).toNat + 1 ≤ 4096 ∧
    (atI 0xFFE (atPc 0xFFE)).status.code = .none := by decide

theorem witness_IndexWriters : (∃ t, exec (.ldI 0x300) State.reset = .next t ∧ t.i ≠ State.reset.i) ∧
    (∀ x y n, Instr.ldI 0x300 ≠ .drw x y n ∧ Instr.ldI 0x300 ≠ .addIX x ∧ Instr.ldI 0x300 ≠ .ldBX x ∧
      Instr.ldI 0x300 ≠ .ldMemX x ∧ Instr.ldI 0x300 ≠ .ldXMem x) :=
  ⟨⟨_, rfl, by decide⟩, by intros; simp⟩

theorem witness_Draw_ranges : (atI 0xFFD State.reset).i.toNat + (0x3#4).toNat ≤ 4096 ∧
    4096 < (atI 0xFFE State.reset).i.toNat + (0x3#4).toNat := by decide

/-- A collision: the glyph 0 over a lit pixel (0,0). No collision: the same sprite over an empty screen. -/
theorem witness_Draw_collision :
    State.spriteOver State.reset 0x1 0x2 0x1 0 0 = true ∧
    Screen.pixel ({ State.reset with fb := Screen.toggle State.reset.fb 0 0 } : State).fb 0 0 = true ∧
    ∀ row col, row < 32 → col < 64 → State.spriteOver State.reset 0x1 0x2 0x1 row col = true →
      Screen.pixel State.reset.fb row col = false := by
  refine ⟨by decide, by decide, fun row col h _ _ => ?_⟩
  simp [Screen.pixel, State.reset, h]

/-- Two other registers that hold the same place; a pixel under the sprite that was off (the screen is off, the byte is
not zero); every pixel under the sprite on (a full screen); a blank sprite. -/
theorem witness_DrawingTwice : State.reset.i.toNat + (0x5#4).toNat ≤ 4096 ∧
    (∃ t, exec (.drw 0x1 0x2 0x5) State.reset = .next t ∧ t.getV 0x3 = State.reset.getV 0x1 ∧
      t.getV 0x4 = State.reset.getV 0x2) ∧
    (State.spriteOver State.reset 0x1 0x2 0x5 0 0 = true ∧ Screen.pixel State.reset.fb 0 0 = false) ∧
    (∀ row col, State.spriteOver (State.reset.setFb (Vector.replicate 32 (BitVec.allOnes 64))) 0x1 0x2 0x5 row col = true →
      Screen.pixel (State.reset.setFb (Vector.replicate 32 (BitVec.allOnes 64))).fb row col = true) ∧
    ((∀ row col, Screen.pixel State.reset.fb row col = false) ∧ State.reset.readByte (State.reset.i.toNat + 0) ≠ 0x00) ∧
    ∀ r, r < (0x5#4).toNat → (atI 0x300 State.reset).readByte ((atI 0x300 State.reset).i.toNat + r) = 0x00 := by
  refine ⟨by decide, ⟨_, rfl, by decide, by decide⟩, by decide, fun row col h => ?_,
    ⟨fun row col => Screen.pixel_clear row col, by decide⟩, by decide⟩
  obtain ⟨hr, hc⟩ := State.spriteOver_range h
  simp only [Screen.pixel, State.setFb, hr, dite_true, Vector.getElem_replicate, BitVec.getLsbD_allOnes, hc, decide_true]

/-- R171 and R173 over R174 (log 22): two draws over a lit screen. The first turns the pixel off and gives VF = 1, the
second turns it on again and gives VF = 0. -/
theorem test_draw_twice_on_lit_pixel :
    nextIs (execAll [.drw 0x1 0x2 0x1, .drw 0x1 0x2 0x1]
        (atI 0x300 { State.reset.writeByte 0x300 0x80 with fb := Screen.toggle State.reset.fb 0 0 }))
      (fun t => t.fb[0] == 1 && t.getV 0xF == 0) = true := by decide

theorem witness_FramebufferWriters :
    (∃ t, exec (.drw 0x1 0x2 0x1) State.reset = .next t ∧ t.fb ≠ State.reset.fb) ∧
    (∀ x y n, Instr.cls ≠ .drw x y n) := ⟨⟨_, rfl, by decide⟩, by intros; simp⟩

theorem witness_Outputs : State.reset.status.code = .none ∧ FaultCode.unknownOpcode ≠ .none ∧
    latched.status.code = .unknownOpcode := by decide

theorem witness_SkipsOnAKey : ((regs [(5, 0xF)]).getV 5).toNat ≤ 0xF ∧ 0xF < ((regs [(5, 0x10)]).getV 5).toNat ∧
    (pressed 0x8000 (regs [(5, 0xF)])).key.getLsbD 0xF = true ∧ (regs [(5, 0xF)]).key.getLsbD 0xF = false := by decide

theorem witness_TimersSet : (regs [(2, 0x01)]).getV 2 = 0x01 := by decide

theorem witness_WaitForKey : State.reset.key = 0x0000 ∧ (pressed 0x8000 State.reset).key ≠ 0x0000 ∧
    (pressed 0x8000 State.reset).config.keySelect = .lowest := by decide

theorem witness_WaitingStep : AtWord (0xF#4 ++ 0x1#4 ++ 0x0A#8) (State.reset.withFetchWord 16 0xF10A) ∧
    (State.reset.withFetchWord 16 0xF10A).key = 0x0000 := by
  unfold AtWord; decide

theorem witness_TimerWriters :
    (∃ t, exec (.ldDtX 0x2) (regs [(2, 5)]) = .next t ∧ t.dt ≠ (regs [(2, 5)]).dt) ∧
    (∃ t, exec (.ldStX 0x2) (regs [(2, 5)]) = .next t ∧ t.st ≠ (regs [(2, 5)]).st) ∧
    (∀ x, Instr.cls ≠ .ldXDt x) := ⟨⟨_, rfl, by decide⟩, ⟨_, rfl, by decide⟩, by intros; simp⟩

theorem witness_KeyReaders : (∃ t, exec .cls State.reset = .next t) ∧
    (∀ x, Instr.cls ≠ .skp x ∧ Instr.cls ≠ .sknp x ∧ Instr.cls ≠ .ldXK x) := ⟨⟨_, rfl⟩, by intros; simp⟩

theorem witness_StackWriters : ∃ t, exec (.call 0x210) State.reset = .next t ∧ t.stack[0] ≠ State.reset.stack[0] ∧
    t.sp ≠ State.reset.sp := ⟨_, rfl, by decide, by decide⟩

theorem witness_MemoryWriters : ∃ t, exec (.ldMemX 0x0) (atI 0xFFF (regs [(0, 0x99)])) = .next t ∧
    t.readByte 0xFFF ≠ (atI 0xFFF (regs [(0, 0x99)])).readByte 0xFFF := ⟨_, rfl, by decide⟩

theorem witness_Faults : (∃ t, exec .ret State.reset = .next t) ∧ State.reset.status.code = .none ∧
    State.reset.sp.val = 0 := ⟨⟨_, rfl⟩, by decide, by decide⟩

/-- A fault at the last fetchable address, and the fetch fault right after it. -/
theorem witness_AFaultingStep :
    nextIs (run (atPc 0xFFE) 0x0000) (fun t => t.status.code != .none) = true ∧
    ((atPc 0xFFE).withFetchWord 16 0x0000).status.code = .none ∧
    nextIs (step (atPc 0xFFF)) (fun t => t.status.code != .none) = true ∧ (atPc 0xFFF).status.code = .none := by decide

theorem witness_ALatchedFault : latched.status.code ≠ .none ∧ Event.tick ≠ .reset := by decide

theorem witness_AnEndedRun : latched.ended = true ∧ (State.reset.withFetchWord 16 0x1200).ended = true ∧
    (State.reset.withFetchWord 16 0x1200).faulted = false := by decide

theorem witness_LoadRom : (List.replicate 3584 (0x00#8)).length ≤ 3584 ∧ 3584 < (List.replicate 3585 (0x00#8)).length := by
  rw [List.length_replicate, List.length_replicate]; omega

theorem witness_Truncated : ([0x12] : List Byte).length < 2 ∧ 1 ≤ ([0x12] : List Byte).length := by decide

/-- A state that meets the invariant without being the reset state: a latched fetch fault with a full stack. -/
theorem witness_Inv : Inv State.reset ∧ Inv { fullStack with pc := 0x10FE, status := ⟨.outOfBounds, 0x10FE, 0x0000⟩ } := by
  constructor <;>
    exact ⟨by decide, by decide, by decide, by decide, by decide, by decide, by decide⟩

end Sys2Proof.Tests
end

section
/-! No transition changes a parameter (00_scope.md R6; log 1): the meanings, then a step, then every transition, then
every sequence of them. The cases of a step and the induction over events stand first, for any invariant to use. -/

namespace Sys2Proof.Machine

/-! ## The cases of a step (30_encoding.md R80) -/

section
variable {s : State}

theorem step_of_latched (h : s.status.code ≠ .none) : step s = .next s := if_pos h

theorem step_of_fetchFault (hs : s.status.code = .none) (hf : s.canFetch = false) :
    step s = .next (s.latch .outOfBounds s.pc 0x0000) := by
  simp [step, hs, hf]

theorem step_of_decoded {i : Instr} (hs : s.status.code = .none) (hf : s.canFetch = true)
    (hd : decodeWord s.fetchWord = .ok i) : step s = exec i s.advance := by
  simp [step, hs, hf, hd]

theorem step_of_illegal {r : Reject} (hs : s.status.code = .none) (hf : s.canFetch = true)
    (hd : decodeWord s.fetchWord = .error r) : step s = raise .unknownOpcode s.fetchWord s.advance := by
  simp [step, hs, hf, hd]

theorem afterStep_of_next {t : State} (h : step s = .next t) : s.afterStep = t := by
  simp [State.afterStep, h]

end

/-! ## Sequences of transitions -/

/-- What every transition keeps holds after every sequence of them. -/
theorem runEvents_induction {P : State → Prop} (hstep : ∀ e t, P t → P (transition e t)) (es : List Event) {s : State}
    (hs : P s) : P (runEvents es s) := by
  induction es generalizing s with
  | nil => exact hs
  | cons e es ih => exact ih (hstep e s hs)

/-! ## The parameters -/

/-- The answer is a next state with the parameters of `s`. -/
def KeepsConfig (s : State) (r : Result) : Prop := ∃ t, r = .next t ∧ t.config = s.config

theorem keepsConfig_next {s t : State} (h : t.config = s.config) : KeepsConfig s (.next t) := ⟨t, rfl, h⟩

theorem raise_keepsConfig (f : FaultCode) (op : Word) (s : State) : KeepsConfig s (raise f op s) :=
  keepsConfig_next (s.latch_config ..)

theorem keepsConfig_ite {s : State} {c : Prop} [Decidable c] {r r' : Result} (h : KeepsConfig s r)
    (h' : KeepsConfig s r') : KeepsConfig s (if c then r else r') := by
  split
  · exact h
  · exact h'

theorem execSys_keepsConfig (nnn : BitVec 12) (s : State) : KeepsConfig s (execSys nnn s) := by
  unfold execSys
  cases s.config.sysPolicy with
  | fault => exact raise_keepsConfig ..
  | nop => exact keepsConfig_next rfl

theorem execCall_keepsConfig (nnn : BitVec 12) (s : State) : KeepsConfig s (execCall nnn s) := by
  by_cases h : s.sp.val < 16
  · exact execCall_of_room s nnn h ▸ keepsConfig_next rfl
  · exact execCall_of_full s nnn h ▸ keepsConfig_next rfl

theorem execSkp_keepsConfig (x : RegIdx) (s : State) : KeepsConfig s (execSkp x s) := by
  unfold execSkp
  cases keyOperand (s.getV x) with
  | some k => exact keepsConfig_next (s.skipIf_config _)
  | none => exact raise_keepsConfig ..

theorem execSknp_keepsConfig (x : RegIdx) (s : State) : KeepsConfig s (execSknp x s) := by
  unfold execSknp
  cases keyOperand (s.getV x) with
  | some k => exact keepsConfig_next (s.skipIf_config _)
  | none => exact raise_keepsConfig ..

/-- The meanings that branch go one by one; each of the others answers one update, which keeps the parameters. -/
theorem exec_keepsConfig (i : Instr) (s : State) : KeepsConfig s (exec i s) := by
  cases i with
  | sys nnn => exact execSys_keepsConfig nnn s
  | ret => exact keepsConfig_ite (raise_keepsConfig ..) (keepsConfig_next rfl)
  | call nnn => exact execCall_keepsConfig nnn s
  | drw x y n => exact keepsConfig_ite (keepsConfig_next rfl) (raise_keepsConfig ..)
  | skp x => exact execSkp_keepsConfig x s
  | sknp x => exact execSknp_keepsConfig x s
  | ldXK x => exact keepsConfig_ite (keepsConfig_next rfl) (keepsConfig_next rfl)
  | ldBX x => exact keepsConfig_ite (keepsConfig_next (s.writeBytes_config ..)) (raise_keepsConfig ..)
  | ldMemX x => exact keepsConfig_ite (keepsConfig_next (s.writeBytes_config ..)) (raise_keepsConfig ..)
  | ldXMem x => exact keepsConfig_ite (keepsConfig_next (s.loadRegs_config ..)) (raise_keepsConfig ..)
  | seKk | sneKk | seXy | sneXy => exact keepsConfig_next (s.skipIf_config _)
  | sub | shr | subn | shl => exact keepsConfig_next (s.writeResultAndFlag_config ..)
  | cls | jp | ldKk | addKk | ldXy | or | and | xor | addXy | ldI | jpV0 | rnd | ldXDt | ldDtX | ldStX | addIX | ldFX =>
    exact keepsConfig_next rfl

theorem step_keepsConfig (s : State) : KeepsConfig s (step s) := by
  by_cases hs : s.status.code = .none
  · cases hf : s.canFetch with
    | false => exact step_of_fetchFault hs hf ▸ keepsConfig_next rfl
    | true =>
      cases hd : decodeWord s.fetchWord with
      | ok i => exact step_of_decoded hs hf hd ▸ exec_keepsConfig i s.advance
      | error r => exact step_of_illegal hs hf hd ▸ raise_keepsConfig _ _ s.advance
  · exact step_of_latched hs ▸ keepsConfig_next rfl

@[simp] theorem State.afterStep_config (s : State) : s.afterStep.config = s.config := by
  obtain ⟨t, hstep, ht⟩ := step_keepsConfig s
  rw [afterStep_of_next hstep, ht]

@[simp] theorem State.loadRom_config (s : State) (rom : List Byte) : (s.loadRom rom).2.config = s.config := by
  unfold State.loadRom
  split
  · exact s.writeBytes_config ..
  · rfl

@[simp] theorem transition_config (e : Event) (s : State) : (transition e s).config = s.config := by
  cases e with
  | step => exact s.afterStep_config
  | load rom => exact s.loadRom_config rom
  | tick | keys | reset => rfl

/-- Settles O52: every transition keeps the parameters, so every sequence of transitions does. -/
theorem parametersNeverChange : Obligations.ParametersNeverChange := fun es s =>
  runEvents_induction (P := fun t => t.config = s.config) (fun e t ht => (transition_config e t).trans ht) es rfl

end Sys2Proof.Machine
end

section
/-! Every step keeps the invariant, and the reset state meets it. What an instruction is executed in (`Fetched`) stands
first, then the meanings, then the step (10_state.md R26, R33; 60_exceptions.md R214, R218). -/

namespace Sys2Proof.Machine

/-! ## Answers of a meaning -/

/-- The answer is a next state, and `P` holds of it. -/
def Answers (P : State → Prop) (r : Result) : Prop := ∃ t, r = .next t ∧ P t

theorem answers_next {P : State → Prop} {t : State} (h : P t) : Answers P (.next t) := ⟨t, rfl, h⟩

theorem answers_ite {P : State → Prop} {c : Prop} [Decidable c] {r r' : Result} (h : c → Answers P r)
    (h' : ¬c → Answers P r') : Answers P (if c then r else r') := by
  split
  · exact h ‹_›
  · exact h' ‹_›

theorem Answers.of_next {P : State → Prop} {r : Result} {t : State} (h : Answers P r) (ht : r = .next t) : P t := by
  obtain ⟨u, hu, hP⟩ := h
  obtain rfl : u = t := by simpa using hu.symm.trans ht
  exact hP

/-! ## The two skips on a key -/

/-- What SKP and SKNP have in common (44_keypad_timers.md R190, R191): skip if the key that Vx names is, or is not,
pressed; OutOfBounds if Vx names none. -/
def skipOnKey (x : RegIdx) (op : Word) (pressed : Bool) (s : State) : Result :=
  match keyOperand (s.getV x) with
  | some k => .next (s.skipIf (keyDown s.key k == pressed))
  | none => raise .outOfBounds op s

theorem exec_skp (x : RegIdx) (s : State) : exec (.skp x) s = skipOnKey x (encode (.skp x)) true s := by
  show execSkp x s = _
  unfold execSkp skipOnKey
  cases keyOperand (s.getV x) <;> simp

theorem exec_sknp (x : RegIdx) (s : State) : exec (.sknp x) s = skipOnKey x (encode (.sknp x)) false s := by
  show execSknp x s = _
  unfold execSknp skipOnKey
  cases keyOperand (s.getV x) <;> simp

/-! ## The state an instruction is executed in -/

/-- The state after the fetch and the PC advance of a state that meets the invariant. -/
structure Fetched (s : State) : Prop where
  memCanonical : Memory.wf s.config s.mem = true
  pcLow : 2 ≤ s.pc.toNat
  pcHigh : s.pc.toNat ≤ 0x1000
  stackBound : ∀ j, (h : j < 16) → (s.stack[j]).toNat ≤ 0x1000
  clear : s.status = { code := .none, fpc := 0x0000, fop := 0x0000 }

theorem canFetch_iff {s : State} : s.canFetch = true ↔ s.pc.toNat ≤ 0x0FFE := by simp [State.canFetch]

theorem canFetch_eq_false_iff {s : State} : s.canFetch = false ↔ 0x0FFE < s.pc.toNat := by simp [State.canFetch]

theorem Inv.fetched {s : State} (h : Inv s) (hs : s.status.code = .none) (hf : s.canFetch = true) :
    Fetched s.advance := by
  have hpc := canFetch_iff.1 hf
  have hadv : s.advance.pc.toNat = s.pc.toNat + 2 := by rw [State.advance_pc]; bv_omega
  obtain ⟨hfpc, hfop⟩ := h.clearLatch hs
  refine ⟨h.memCanonical, by omega, by omega, h.stackBound, ?_⟩
  calc s.status = ⟨s.status.code, s.status.fpc, s.status.fop⟩ := rfl
    _ = ⟨.none, 0x0000, 0x0000⟩ := by rw [hs, hfpc, hfop]

/-- The codes an instruction, or the fetch of one, can latch (60_exceptions.md R210, R218). -/
abbrev FaultCode.latchable (f : FaultCode) : Prop := f ≠ .none ∧ f ≠ .romTooLarge ∧ f ≠ .truncatedSource

section
variable {s : State} (h : Fetched s)
include h

/-- A next state that raised no fault has only its memory, its PC and its stack to answer for. -/
theorem Fetched.inv_of_status {t : State} (hmem : Memory.wf t.config t.mem = true) (hpc : t.pc.toNat ≤ 0x10FE)
    (hstack : ∀ j, (hj : j < 16) → (t.stack[j]).toNat ≤ 0x1000) (hstatus : t.status = s.status) : Inv t := by
  rw [h.clear] at hstatus
  exact ⟨hmem, hpc, hstack, fun _ => by simp [hstatus], by simp [hstatus], fun hc => absurd (by rw [hstatus]) hc,
    fun hc => absurd (by rw [hstatus]) hc⟩

/-- A next state with the memory and the stack of `s` and no fault has only its PC to answer for. -/
theorem Fetched.inv_of_pc {t : State} (hpc : t.pc.toNat ≤ 0x10FE) (hmem : t.mem = s.mem := by simp)
    (hconfig : t.config = s.config := by simp) (hstack : t.stack = s.stack := by simp)
    (hstatus : t.status = s.status := by simp) : Inv t :=
  h.inv_of_status (by rw [hconfig, hmem]; exact h.memCanonical) hpc (by rw [hstack]; exact h.stackBound) hstatus

theorem Fetched.inv_of_pc_eq {t : State} (hpc : t.pc = s.pc := by simp) (hmem : t.mem = s.mem := by simp)
    (hconfig : t.config = s.config := by simp) (hstack : t.stack = s.stack := by simp)
    (hstatus : t.status = s.status := by simp) : Inv t :=
  h.inv_of_pc (by have := h.pcHigh; rw [hpc]; omega) hmem hconfig hstack hstatus

/-- A raised fault: PC is 2 past the address it names, which is below 0xFFF (60_exceptions.md R214). -/
theorem Fetched.inv_raise {f : FaultCode} (hf : f.latchable) (op : Word) : Answers Inv (raise f op s) := by
  obtain ⟨hnone, hload⟩ := hf
  have hlow := h.pcLow
  have hhigh := h.pcHigh
  have hfpc : (s.pc - 2).toNat ≤ 0x0FFE := by bv_omega
  refine answers_next ⟨h.memCanonical, ?_, h.stackBound, fun hc => absurd hc hnone, hload, fun _ _ => ?_,
    fun _ hc => absurd hfpc (by simpa using hc)⟩
  · rw [State.latch_pc]; omega
  · rw [State.latch_pc, State.latch_status]; bv_omega

/-- A skip leaves PC at most at 0x1002. -/
theorem Fetched.inv_skipIf (c : Bool) : Inv (s.skipIf c) := by
  have hhigh := h.pcHigh
  refine h.inv_of_pc ?_
  rw [State.skipIf_pc]
  split
  · bv_omega
  · omega

/-- A block store inside MEM keeps memory canonical. -/
theorem Fetched.inv_writeBytes {a : Nat} {bs : List Byte} (ha : a + bs.length ≤ memSize) :
    Inv (s.writeBytes a bs) :=
  h.inv_of_status (s.writeBytes_wf bs ha h.memCanonical) (by have := h.pcHigh; simp; omega)
    (by simpa using h.stackBound) (by simp)

theorem Fetched.inv_execSys (nnn : BitVec 12) : Answers Inv (execSys nnn s) := by
  unfold execSys
  cases s.config.sysPolicy with
  | fault => exact h.inv_raise (by decide) _
  | nop => exact answers_next h.inv_of_pc_eq

/-- RET gives PC a return address, or underflows. -/
theorem Fetched.inv_execRet : Answers Inv (execRet s) := by
  by_cases hsp : s.sp.val = 0
  · rw [execRet_of_empty s hsp]
    exact h.inv_raise (f := .stackUnderflow) (by decide) 0x00EE
  · rw [execRet_of_nonempty s (Nat.pos_of_ne_zero hsp)]
    exact answers_next (h.inv_of_pc ((h.stackBound _ (by omega)).trans (by decide)))

/-- CALL pushes the advanced PC, which is at most 0x1000, or overflows. -/
theorem Fetched.inv_execCall (nnn : BitVec 12) : Answers Inv (execCall nnn s) := by
  by_cases hsp : s.sp.val < 16
  · rw [execCall_of_room s nnn hsp]
    refine answers_next (h.inv_of_status h.memCanonical ?_ (fun j hj => ?_) rfl)
    · have := nnn.isLt
      simp only [State.jump_pc, zextNnn_toNat]; omega
    · simp only [State.jump_stack, State.push_stack, Vector.getElem_set]
      split
      · exact h.pcHigh
      · exact h.stackBound j hj
  · rw [execCall_of_full s nnn hsp]
    exact h.inv_raise (f := .stackOverflow) (by decide) _

theorem Fetched.inv_skipOnKey (x : RegIdx) (op : Word) (pressed : Bool) : Answers Inv (skipOnKey x op pressed s) := by
  unfold skipOnKey
  cases keyOperand (s.getV x) with
  | some k => exact answers_next (h.inv_skipIf _)
  | none => exact h.inv_raise (by decide) op

/-- A memory instruction: OutOfBounds, or the access whose range is inside MEM. -/
theorem Fetched.inv_rangeOk {a len : Nat} {t : State} (op : Word) (ht : a + len ≤ memSize → Inv t) :
    Answers Inv (if rangeOk a len then .next t else raise .outOfBounds op s) :=
  answers_ite (fun hok => answers_next (ht (rangeOk_iff.1 hok)))
    (fun _ => h.inv_raise (by decide) op)

/-- The meanings that write PC, the stack, memory or STATUS go one by one; every other meaning leaves all four alone. -/
theorem Fetched.inv_exec (i : Instr) : Answers Inv (exec i s) := by
  have hlow := h.pcLow
  have hhigh := h.pcHigh
  cases i with
  | sys nnn => exact h.inv_execSys nnn
  | ret => exact h.inv_execRet
  | call nnn => exact h.inv_execCall nnn
  | jp nnn =>
    have := nnn.isLt
    exact answers_next (h.inv_of_pc (by simp only [State.jump_pc, zextNnn_toNat]; omega))
  | jpV0 nnn =>
    have hnnn := nnn.isLt
    have hv0 := (s.getV 0).isLt
    exact answers_next (h.inv_of_pc (by simp only [State.jump_pc, jumpV0Target_toNat]; omega))
  | seKk | sneKk | seXy | sneXy => exact answers_next (h.inv_skipIf _)
  | skp x =>
    rw [exec_skp]
    exact h.inv_skipOnKey ..
  | sknp x =>
    rw [exec_sknp]
    exact h.inv_skipOnKey ..
  | ldXK x =>
    exact answers_ite (fun _ => answers_next (h.inv_of_pc (by simp only [State.rewind_pc]; bv_omega)))
      (fun _ => answers_next h.inv_of_pc_eq)
  | drw x y n => exact h.inv_rangeOk _ fun _ => h.inv_of_pc_eq
  | ldXMem x => exact h.inv_rangeOk _ fun _ => h.inv_of_pc_eq
  | ldBX x => exact h.inv_rangeOk _ fun hok => h.inv_writeBytes hok
  | ldMemX x => exact h.inv_rangeOk _ fun hok => h.inv_writeBytes (by simpa using hok)
  | cls | ldKk | addKk | ldXy | or | and | xor | addXy | sub | shr | subn | shl | ldI | rnd | ldXDt | ldDtX | ldStX
  | addIX | ldFX => exact answers_next h.inv_of_pc_eq

end

/-- A fetch past 0xFFE latches OutOfBounds at the PC it could not fetch, and PC stays there (60_exceptions.md R214). -/
theorem Inv.latch_fetchFault {s : State} (h : Inv s) (hf : 0x0FFE < s.pc.toNat) :
    Inv (s.latch .outOfBounds s.pc 0x0000) where
  memCanonical := h.memCanonical
  pcBound := h.pcBound
  stackBound := h.stackBound
  clearLatch hc := nomatch hc
  noLoadCode := by simp
  faultPc _ hle := absurd hle (Nat.not_le.2 hf)
  fetchFaultPc _ _ := ⟨rfl, rfl, rfl⟩

theorem step_keepsInv {s : State} (h : Inv s) : Answers Inv (step s) := by
  by_cases hs : s.status.code = .none
  · cases hf : s.canFetch with
    | false => exact step_of_fetchFault hs hf ▸ answers_next (h.latch_fetchFault (canFetch_eq_false_iff.1 hf))
    | true =>
      cases hd : decodeWord s.fetchWord with
      | ok i => exact step_of_decoded hs hf hd ▸ (h.fetched hs hf).inv_exec i
      | error r => exact step_of_illegal hs hf hd ▸ (h.fetched hs hf).inv_raise (by decide) _
  · exact step_of_latched hs ▸ answers_next h

/-- Settles O56: a latched state stays as it is, a fetch fault latches at its own PC, and each meaning keeps the
invariant from the state after the PC advance. -/
theorem everyStepKeepsTheInvariant : Obligations.EveryStepKeepsTheInvariant := fun _ _ h hstep =>
  (step_keepsInv h).of_next hstep

/-- Settles O55: the memory lists nothing, PC is 0x200, the stack is zero and the latch is clear. -/
theorem resetMeetsTheInvariant : Obligations.ResetMeetsTheInvariant where
  memCanonical := Memory.wf_reset
  pcBound := by decide
  stackBound j hj := by simp [State.reset]
  clearLatch _ := ⟨rfl, rfl⟩
  noLoadCode := by decide
  faultPc hc := absurd rfl hc
  fetchFaultPc hc := absurd rfl hc

end Sys2Proof.Machine
end

section
/-! What an instruction writes: the parts of the state (10_state.md R20), the V registers (R22, R23) and the stack
entries (R27, R28). One frame lemma per update, then one per instruction; each claim about a writer follows from the
table of the parts an instruction may write. -/

namespace Sys2Proof.Machine

/-! ## Frames -/

theorem State.Same.refl (p : Part) (s : State) : State.Same p s s := by
  cases p with
  | mem | v => exact fun _ => rfl
  | i | pc | sp | stack | dt | st | key | fb | status | draws | config => rfl

theorem State.Same.symm {p : Part} {s t : State} (h : State.Same p s t) : State.Same p t s := by
  cases p with
  | mem | v => exact fun a => (h a).symm
  | i | pc | sp | stack | dt | st | key | fb | status | draws | config => exact Eq.symm h

theorem State.Same.trans {p : Part} {s t u : State} (h : State.Same p s t) (h' : State.Same p t u) :
    State.Same p s u := by
  cases p with
  | mem | v => exact fun a => (h' a).trans (h a)
  | i | pc | sp | stack | dt | st | key | fb | status | draws | config => exact Eq.trans h' h

theorem Unchanged.refl (W : List Part) (s : State) : Unchanged W s s := fun p _ => State.Same.refl p s

theorem Unchanged.mono {W W' : List Part} {s t : State} (h : Unchanged W s t) (hW : W ⊆ W') : Unchanged W' s t :=
  fun p hp => h p (fun hW' => hp (hW hW'))

/-- Two updates, one after the other, write what either writes. -/
theorem Unchanged.trans {W W' : List Part} {s t u : State} (h : Unchanged W s t) (h' : Unchanged W' t u) :
    Unchanged (W ++ W') s u :=
  fun p hp => by
    obtain ⟨hW, hW'⟩ := not_or.1 (mt List.mem_append.2 hp)
    exact (h p hW).trans (h' p hW')

section
variable (s : State)

theorem State.unchanged_setV (x : RegIdx) (b : Byte) : Unchanged [.v] s (s.setV x b) := by
  intro p hp; cases p <;> simp_all [State.Same]

theorem State.unchanged_latch (f : FaultCode) (fpc fop : Word) : Unchanged [.status] s (s.latch f fpc fop) := by
  intro p hp; cases p <;> simp_all [State.Same]

theorem State.unchanged_rewind : Unchanged [.pc] s s.rewind := by
  intro p hp; cases p <;> simp_all [State.Same]

theorem State.unchanged_skipIf (c : Bool) : Unchanged [.pc] s (s.skipIf c) := by
  intro p hp; cases p <;> simp_all [State.Same]

theorem State.unchanged_jump (a : Word) : Unchanged [.pc] s (s.jump a) := by
  intro p hp; cases p <;> simp_all [State.Same]

theorem State.unchanged_push (a : Word) (h : s.sp.val < 16) : Unchanged [.sp, .stack] s (s.push a h) := by
  intro p hp; cases p <;> simp_all [State.Same]

theorem State.unchanged_pop : Unchanged [.sp] s s.pop := by
  intro p hp; cases p <;> simp_all [State.Same]

theorem State.unchanged_setI (a : Word) : Unchanged [.i] s (s.setI a) := by
  intro p hp; cases p <;> simp_all [State.Same]

theorem State.unchanged_setFb (f : Screen) : Unchanged [.fb] s (s.setFb f) := by
  intro p hp; cases p <;> simp_all [State.Same]

theorem State.unchanged_setDt (b : Byte) : Unchanged [.dt] s (s.setDt b) := by
  intro p hp; cases p <;> simp_all [State.Same]

theorem State.unchanged_setSt (b : Byte) : Unchanged [.st] s (s.setSt b) := by
  intro p hp; cases p <;> simp_all [State.Same]

theorem State.unchanged_keyIn (keys : Word) : Unchanged [.key] s (s.keyIn keys) := by
  intro p hp; cases p <;> simp_all [State.Same]

theorem State.unchanged_loadDraw (r : Byte) (x : RegIdx) (kk : Byte) :
    Unchanged [.v, .draws] s (s.loadDraw r x kk) := by
  intro p hp; cases p <;> simp_all [State.Same]

theorem State.unchanged_writeBytes (a : Nat) (bs : List Byte) : Unchanged [.mem] s (s.writeBytes a bs) := by
  intro p hp; cases p <;> simp_all [State.Same]

theorem State.unchanged_loadRegs (a k : Nat) : Unchanged [.v] s (s.loadRegs a k) := by
  intro p hp; cases p <;> simp_all [State.Same]

theorem State.unchanged_resultThenFlag (x : RegIdx) (o : AluOut) : Unchanged [.v] s (s.resultThenFlag x o) :=
  ((s.unchanged_setV _ _).trans (State.unchanged_setV _ _ _)).mono (by simp)

theorem State.unchanged_writeResultAndFlag (x : RegIdx) (o : AluOut) : Unchanged [.v] s (s.writeResultAndFlag x o) := by
  intro p hp; cases p <;> simp_all [State.Same]

end

/-! ## The parts an instruction writes -/

/-- The parts of the state the meaning of an instruction may write, STATUS when it can fault. -/
def partWrites : Instr → List Part
  | .sys _ => [.status]
  | .cls => [.fb]
  | .ret => [.pc, .sp, .status]
  | .call _ => [.pc, .sp, .stack, .status]
  | .jp _ | .jpV0 _ | .seKk _ _ | .sneKk _ _ | .seXy _ _ | .sneXy _ _ => [.pc]
  | .ldKk _ _ | .addKk _ _ | .ldXy _ _ | .or _ _ | .and _ _ | .xor _ _ | .addXy _ _ | .sub _ _ | .shr _ _ | .subn _ _
  | .shl _ _ | .ldXDt _ => [.v]
  | .rnd _ _ => [.v, .draws]
  | .drw _ _ _ => [.v, .fb, .status]
  | .skp _ | .sknp _ => [.pc, .status]
  | .ldXK _ => [.v, .pc]
  | .ldDtX _ => [.dt]
  | .ldStX _ => [.st]
  | .ldI _ | .addIX _ | .ldFX _ => [.i]
  | .ldBX _ | .ldMemX _ => [.mem, .status]
  | .ldXMem _ => [.v, .status]

theorem raise_unchanged {W : List Part} (f : FaultCode) (op : Word) (s : State)
    (hW : .status ∈ W := by simp [partWrites]) :
    Answers (Unchanged W s) (raise f op s) :=
  answers_next ((s.unchanged_latch _ _ _).mono (by simpa using hW))

theorem Unchanged.answers {W W' : List Part} {s t : State} (h : Unchanged W s t) (hW : W ⊆ W' := by simp [partWrites]) :
    Answers (Unchanged W' s) (.next t) :=
  answers_next (h.mono hW)

theorem execSys_unchanged (nnn : BitVec 12) (s : State) : Answers (Unchanged [.status] s) (execSys nnn s) := by
  unfold execSys
  cases s.config.sysPolicy with
  | fault => exact raise_unchanged ..
  | nop => exact answers_next (Unchanged.refl _ s)

theorem execCall_unchanged (nnn : BitVec 12) (s : State) :
    Answers (Unchanged [.pc, .sp, .stack, .status] s) (execCall nnn s) := by
  by_cases h : s.sp.val < 16
  · rw [execCall_of_room s nnn h]
    exact ((s.unchanged_push s.pc h).trans (State.unchanged_jump _ _)).answers
  · rw [execCall_of_full s nnn h]
    exact (s.unchanged_latch _ _ _).answers

theorem skipOnKey_unchanged (x : RegIdx) (op : Word) (pressed : Bool) (s : State) :
    Answers (Unchanged [.pc, .status] s) (skipOnKey x op pressed s) := by
  unfold skipOnKey
  cases keyOperand (s.getV x) with
  | some k => exact (s.unchanged_skipIf _).answers
  | none => exact raise_unchanged ..

/-- An instruction changes no part of the state but those `partWrites` gives it. -/
theorem exec_unchanged (i : Instr) (s : State) : Answers (Unchanged (partWrites i) s) (exec i s) := by
  cases i with
  | sys nnn => exact execSys_unchanged nnn s
  | ret =>
    exact answers_ite (fun _ => raise_unchanged ..) fun _ => (s.unchanged_pop.trans (State.unchanged_jump _ _)).answers
  | call nnn => exact execCall_unchanged nnn s
  | skp x =>
    rw [exec_skp]
    exact skipOnKey_unchanged ..
  | sknp x =>
    rw [exec_sknp]
    exact skipOnKey_unchanged ..
  | drw x y n =>
    exact answers_ite (fun _ => ((s.unchanged_setFb _).trans (State.unchanged_setV _ _ _)).answers)
      fun _ => raise_unchanged ..
  | ldXK x => exact answers_ite (fun _ => s.unchanged_rewind.answers) fun _ => (s.unchanged_setV _ _).answers
  | ldBX | ldMemX => exact answers_ite (fun _ => (s.unchanged_writeBytes _ _).answers) fun _ => raise_unchanged ..
  | ldXMem => exact answers_ite (fun _ => (s.unchanged_loadRegs _ _).answers) fun _ => raise_unchanged ..
  | cls => exact (s.unchanged_setFb _).answers
  | jp | jpV0 => exact (s.unchanged_jump _).answers
  | seKk | sneKk | seXy | sneXy => exact (s.unchanged_skipIf _).answers
  | ldKk | addKk | ldXy | or | and | xor | ldXDt => exact (s.unchanged_setV _ _).answers
  | addXy => exact (s.unchanged_resultThenFlag _ _).answers
  | sub | shr | subn | shl => exact (s.unchanged_writeResultAndFlag _ _).answers
  | rnd => exact (s.unchanged_loadDraw _ _ _).answers
  | ldDtX => exact (s.unchanged_setDt _).answers
  | ldStX => exact (s.unchanged_setSt _).answers
  | ldI | addIX | ldFX => exact (s.unchanged_setI _).answers

/-- A part that an instruction has changed is one that `partWrites` gives it. -/
theorem mem_partWrites_of_changed {i : Instr} {s t : State} {p : Part} (h : exec i s = .next t)
    (hp : ¬State.Same p s t) : p ∈ partWrites i := by
  by_contra hW
  exact hp ((exec_unchanged i s).of_next h p hW)

/-! ### The writers of one part -/

theorem i_mem_partWrites {i : Instr} (h : .i ∈ partWrites i) :
    (∃ nnn, i = .ldI nnn) ∨ ∃ x, i = .addIX x ∨ i = .ldFX x := by
  cases i <;> simp [partWrites] at h ⊢

theorem fb_mem_partWrites {i : Instr} (h : .fb ∈ partWrites i) : i = .cls ∨ ∃ x y n, i = .drw x y n := by
  cases i <;> simp [partWrites] at h ⊢

theorem dt_mem_partWrites {i : Instr} (h : .dt ∈ partWrites i) : ∃ x, i = .ldDtX x := by
  cases i <;> simp [partWrites] at h ⊢

theorem st_mem_partWrites {i : Instr} (h : .st ∈ partWrites i) : ∃ x, i = .ldStX x := by
  cases i <;> simp [partWrites] at h ⊢

theorem key_notMem_partWrites (i : Instr) : .key ∉ partWrites i := by
  cases i <;> simp [partWrites]

theorem sp_mem_partWrites {i : Instr} (h : .sp ∈ partWrites i) : i = .ret ∨ ∃ nnn, i = .call nnn := by
  cases i <;> simp [partWrites] at h ⊢

theorem stack_mem_partWrites {i : Instr} (h : .stack ∈ partWrites i) : ∃ nnn, i = .call nnn := by
  cases i <;> simp [partWrites] at h ⊢

/-! ## The V registers an instruction writes (10_state.md R22, R23) -/

theorem mem_regsUpTo {x y : RegIdx} : y ∈ regsUpTo x ↔ y.toNat ≤ x.toNat := by
  have hx := x.isLt
  have hy := y.isLt
  simp only [regsUpTo, List.mem_map, List.mem_range]
  constructor
  · rintro ⟨k, hk, rfl⟩
    simp only [BitVec.toNat_ofNat]; omega
  · intro h
    exact ⟨y.toNat, by omega, by simp⟩

theorem Unchanged.regsUnchanged {W : List Part} {s t : State} (h : Unchanged W s t) (hv : .v ∉ W) (R : List RegIdx) :
    RegsUnchanged R s t := fun y _ => h .v hv y

section
variable (s : State)

theorem State.regsUnchanged_setV {R : List RegIdx} {x : RegIdx} (b : Byte) (hx : x ∈ R) :
    RegsUnchanged R s (s.setV x b) :=
  fun _ hy => s.getV_setV_ne (ne_of_mem_of_not_mem hx hy).symm b

theorem State.regsUnchanged_resultThenFlag (x : RegIdx) (o : AluOut) :
    RegsUnchanged [x, 0xF] s (s.resultThenFlag x o) := fun y hy => by
  simp only [List.mem_cons, not_or] at hy
  rw [State.getV_resultThenFlag, if_neg hy.2.1, if_neg hy.1]

theorem State.regsUnchanged_writeResultAndFlag (x : RegIdx) (o : AluOut) :
    RegsUnchanged [x, 0xF] s (s.writeResultAndFlag x o) := fun y hy => by
  simp only [List.mem_cons, not_or] at hy
  rw [State.getV_writeResultAndFlag, if_neg fun h => hy.1 h.1, if_neg hy.2.1]

theorem State.regsUnchanged_loadRegs (a : Nat) (x : RegIdx) :
    RegsUnchanged (regsUpTo x) s (s.loadRegs a (blockLength x)) := fun y hy => by
  have hxy := mt mem_regsUpTo.2 hy
  rw [State.getV_loadRegs s a (blockLength_le x), if_neg (by unfold blockLength; omega)]

end

/-- The meanings that load a register go by the operation they load with; the others leave V alone by their frame. -/
theorem exec_regsUnchanged (i : Instr) (s : State) : Answers (RegsUnchanged (tableWrites i) s) (exec i s) := by
  have hquiet (hv : .v ∉ partWrites i) : Answers (RegsUnchanged (tableWrites i) s) (exec i s) := by
    obtain ⟨t, ht, hframe⟩ := exec_unchanged i s
    exact ⟨t, ht, hframe.regsUnchanged hv _⟩
  have hfault (f : FaultCode) (op : Word) : Answers (RegsUnchanged (tableWrites i) s) (raise f op s) :=
    answers_next fun _ _ => rfl
  cases i with
  | ldKk | addKk | ldXy | or | and | xor | ldXDt => exact answers_next (s.regsUnchanged_setV _ (by simp [tableWrites]))
  | rnd => exact answers_next (s.regsUnchanged_setV _ (by simp [tableWrites]))
  | addXy x => exact answers_next (s.regsUnchanged_resultThenFlag x _)
  | sub x | shr x | subn x | shl x => exact answers_next (s.regsUnchanged_writeResultAndFlag x _)
  | drw =>
    exact answers_ite (fun _ => answers_next (State.regsUnchanged_setV _ _ (by simp [tableWrites]))) fun _ => hfault ..
  | ldXK =>
    exact answers_ite (fun _ => answers_next fun _ _ => rfl) fun _ =>
      answers_next (s.regsUnchanged_setV _ (by simp [tableWrites]))
  | ldXMem x => exact answers_ite (fun _ => answers_next (s.regsUnchanged_loadRegs _ x)) fun _ => hfault ..
  | sys | cls | ret | jp | call | seKk | sneKk | seXy | sneXy | ldI | jpV0 | skp | sknp | ldDtX | ldStX | addIX | ldFX
  | ldBX | ldMemX => exact hquiet (by simp [partWrites])

/-- Settles O25: the writes column is the frame of every meaning on V. -/
theorem onlyTheTableRegistersAreWritten : Obligations.OnlyTheTableRegistersAreWritten := fun i s _ h =>
  (exec_regsUnchanged i s).of_next h

theorem eq_vf_of_mem_regsUpTo {x : RegIdx} (h : 0xF ∈ regsUpTo x) : x = 0xF := by
  have := mem_regsUpTo.1 h
  bv_omega

/-- The rows of the writes column that name VF (10_state.md R22). -/
theorem vf_mem_tableWrites {i : Instr} (h : 0xF ∈ tableWrites i) :
    (∃ x y, i = .addXy x y ∨ i = .sub x y ∨ i = .shr x y ∨ i = .subn x y ∨ i = .shl x y) ∨
    (∃ x y n, i = .drw x y n) ∨
    (∃ kk, i = .ldKk 0xF kk ∨ i = .addKk 0xF kk ∨ i = .rnd 0xF kk) ∨
    (∃ y, i = .ldXy 0xF y ∨ i = .or 0xF y ∨ i = .and 0xF y ∨ i = .xor 0xF y) ∨
    i = .ldXDt 0xF ∨ i = .ldXK 0xF ∨ i = .ldXMem 0xF := by
  cases i with
  | ldKk x | addKk x | rnd x | ldXy x | or x | and x | xor x | ldXDt x | ldXK x =>
    obtain rfl : 0xF = x := by simpa [tableWrites] using h
    simp
  | ldXMem x =>
    obtain rfl := eq_vf_of_mem_regsUpTo h
    simp
  | addXy | sub | shr | subn | shl | drw => simp
  | sys | cls | ret | jp | call | seKk | sneKk | seXy | sneXy | ldI | jpV0 | skp | sknp | ldDtX | ldStX | addIX | ldFX
  | ldBX | ldMemX => simp [tableWrites] at h

/-- Settles O24: a VF that changed is in the writes column. -/
theorem vfIsWrittenOnlyByItsWriters : Obligations.VfIsWrittenOnlyByItsWriters := fun i s _ h hne =>
  vf_mem_tableWrites (by_contra fun hF => hne ((exec_regsUnchanged i s).of_next h 0xF hF))

/-! ## The stack (10_state.md R27, R28) -/

theorem execCall_stack {nnn : BitVec 12} {s t : State} (h : execCall nnn s = .next t) {j : Nat} (hj : j < 16)
    (hne : t.stack[j] ≠ s.stack[j]) : s.sp.val = j := by
  by_cases hsp : s.sp.val < 16
  · rw [execCall_of_room s nnn hsp] at h
    obtain rfl : _ = t := by simpa using h
    by_contra hsj
    exact hne (by simp [Vector.getElem_set_ne, hsj])
  · rw [execCall_of_full s nnn hsp] at h
    obtain rfl : _ = t := by simpa using h
    exact absurd rfl hne

/-- Settles O46: only CALL writes STACK, at entry SP; only CALL and RET write SP. -/
theorem stackIsWrittenOnlyByCall : Obligations.StackIsWrittenOnlyByCall := by
  refine fun i s t h => ⟨fun j hj hne => ?_, fun hne => sp_mem_partWrites (mem_partWrites_of_changed h hne)⟩
  have hstack : ¬State.Same .stack s t := fun hs => hne (by rw [show t.stack = s.stack from hs])
  obtain ⟨nnn, rfl⟩ := stack_mem_partWrites (mem_partWrites_of_changed h hstack)
  exact ⟨execCall_stack h hj hne, nnn, rfl⟩

end Sys2Proof.Machine
end

section
/-! What an instruction depends on (10_state.md R23, R24, R29 to R32). Two states that agree off some parts and some
registers keep agreeing off them through every instruction that reads none of them: one lemma per update, one per
instruction, and each claim about the readers of a part follows. -/

namespace Sys2Proof.Machine

/-! ## States that agree off some parts and registers -/

/-- Part `p` of `s` and `t` agrees, where V is compared off the registers `R`. -/
def State.SameOff (R : List RegIdx) (p : Part) (s t : State) : Prop :=
  if p = .v then RegsUnchanged R s t else State.Same p s t

/-- `s` and `t` agree in every part off `E`, and in every register off `R`. -/
def AgreeOff (E : List Part) (R : List RegIdx) (s t : State) : Prop := ∀ p, p ∉ E → State.SameOff R p s t

@[simp] theorem sameOff_v {R : List RegIdx} {s t : State} : State.SameOff R .v s t ↔ RegsUnchanged R s t := by
  simp [State.SameOff]

theorem sameOff_iff_same {R : List RegIdx} {p : Part} {s t : State} (hp : p ≠ .v) :
    State.SameOff R p s t ↔ State.Same p s t := by
  simp [State.SameOff, hp]

theorem sameOff_nil_iff_same {p : Part} {s t : State} : State.SameOff [] p s t ↔ State.Same p s t := by
  by_cases hp : p = .v
  · subst hp; simp [RegsUnchanged, State.Same]
  · exact sameOff_iff_same hp

theorem State.Same.sameOff {p : Part} {s t : State} (h : State.Same p s t) (R : List RegIdx) :
    State.SameOff R p s t := by
  by_cases hp : p = .v
  · subst hp; exact sameOff_v.2 fun y _ => h y
  · exact (sameOff_iff_same hp).2 h

theorem State.SameOff.trans {R : List RegIdx} {p : Part} {s t u : State} (h : State.SameOff R p s t)
    (h' : State.SameOff R p t u) : State.SameOff R p s u := by
  by_cases hp : p = .v
  · subst hp
    exact sameOff_v.2 fun y hy => (sameOff_v.1 h' y hy).trans (sameOff_v.1 h y hy)
  · rw [sameOff_iff_same hp] at h h' ⊢
    exact h.trans h'

theorem agreeOff_nil_iff {E : List Part} {s t : State} : AgreeOff E [] s t ↔ Unchanged E s t :=
  forall₂_congr fun _ _ => sameOff_nil_iff_same

theorem agreeOff_setV (s : State) (y : RegIdx) (b : Byte) : AgreeOff [] [y] s (s.setV y b) := fun p _ => by
  by_cases hp : p = .v
  · subst hp
    exact sameOff_v.2 (s.regsUnchanged_setV b (by simp))
  · exact (s.unchanged_setV y b p (by simpa using hp)).sameOff _

section
variable {E : List Part} {R : List RegIdx} {s s' : State} (h : AgreeOff E R s s')
include h

/-! ### What agreeing states read alike -/

theorem AgreeOff.same {p : Part} (hp : p ∉ E) (hv : p ≠ .v := by simp) : State.Same p s s' :=
  (sameOff_iff_same hv).1 (h p hp)

theorem AgreeOff.i (hp : .i ∉ E) : s'.i = s.i := h.same hp
theorem AgreeOff.pc (hp : .pc ∉ E) : s'.pc = s.pc := h.same hp
theorem AgreeOff.sp (hp : .sp ∉ E) : s'.sp = s.sp := h.same hp
theorem AgreeOff.stack (hp : .stack ∉ E) : s'.stack = s.stack := h.same hp
theorem AgreeOff.dt (hp : .dt ∉ E) : s'.dt = s.dt := h.same hp
theorem AgreeOff.key (hp : .key ∉ E) : s'.key = s.key := h.same hp
theorem AgreeOff.fb (hp : .fb ∉ E) : s'.fb = s.fb := h.same hp
theorem AgreeOff.draws (hp : .draws ∉ E) : s'.draws = s.draws := h.same hp
theorem AgreeOff.config (hp : .config ∉ E) : s'.config = s.config := h.same hp
theorem AgreeOff.readByte (hp : .mem ∉ E) (a : Nat) : s'.readByte a = s.readByte a :=
  h.same hp (by simp) a

theorem AgreeOff.getV {x : RegIdx} (hv : .v ∉ E) (hx : x ∉ R) : s'.getV x = s.getV x := sameOff_v.1 (h .v hv) x hx

theorem AgreeOff.base (hi : .i ∉ E) : s'.base = s.base := congrArg BitVec.toNat (h.i hi)

theorem AgreeOff.top (hsp : .sp ∉ E) (hstack : .stack ∉ E) : s'.top = s.top := by
  have hsp := h.sp hsp
  have hstack := h.stack hstack
  simp only [State.top, hsp, hstack]

theorem AgreeOff.regBytes {x : RegIdx} (hv : .v ∉ E) (hx : ∀ y ∈ regsUpTo x, y ∉ R) : s'.regBytes x = s.regBytes x :=
  List.map_congr_left fun _ hk => h.getV hv (hx _ (List.mem_map_of_mem hk))

theorem AgreeOff.drawSprite {x y : RegIdx} (n : Nat) (hmem : .mem ∉ E) (hi : .i ∉ E) (hfb : .fb ∉ E) (hv : .v ∉ E)
    (hx : x ∉ R) (hy : y ∉ R) : s'.drawSprite x y n = s.drawSprite x y n := by
  have hmem := h.readByte hmem
  have hi := h.i hi
  have hfb := h.fb hfb
  simp only [State.drawSprite, State.base, hmem, hi, hfb, h.getV hv hx, h.getV hv hy]

/-! ### Updates keep agreement -/

/-- The same kind of update on both sides: the parts it writes are compared anew, the others agreed before. -/
theorem AgreeOff.update {W : List Part} {t t' : State} (hs : Unchanged W s t) (hs' : Unchanged W s' t')
    (hW : ∀ p ∈ W, p ∉ E → State.SameOff R p t t') : AgreeOff E R t t' := fun p hp => by
  by_cases hpW : p ∈ W
  · exact hW p hpW hp
  · exact (((hs p hpW).symm.sameOff R).trans (h p hp)).trans ((hs' p hpW).sameOff R)

/-- An update that writes one part other than V. -/
theorem AgreeOff.updatePart {p : Part} {t t' : State} (hs : Unchanged [p] s t) (hs' : Unchanged [p] s' t')
    (hp : p ∉ E → State.Same p t t') : AgreeOff E R t t' :=
  h.update hs hs' (List.forall_mem_singleton.2 fun hpE => (hp hpE).sameOff R)

/-- An update of V. -/
theorem AgreeOff.updateV {t t' : State} (hs : Unchanged [.v] s t) (hs' : Unchanged [.v] s' t')
    (hv : .v ∉ E → RegsUnchanged R t t') : AgreeOff E R t t' :=
  h.update hs hs' (List.forall_mem_singleton.2 fun hvE => sameOff_v.2 (hv hvE))

theorem AgreeOff.setV (x : RegIdx) {b b' : Byte} (hb : b' = b) : AgreeOff E R (s.setV x b) (s'.setV x b') :=
  h.updateV (s.unchanged_setV _ _) (s'.unchanged_setV _ _) fun hv y hy => by
    rw [State.getV_setV, State.getV_setV, hb, h.getV hv hy]

theorem AgreeOff.loadRegs {a a' : Nat} (k : Nat) (hmem : .mem ∉ E) (ha : a' = a) :
    AgreeOff E R (s.loadRegs a k) (s'.loadRegs a' k) := by
  subst ha
  have hread := h.readByte hmem
  induction k with
  | zero => exact h
  | succ k ih =>
    exact ih.setV _ (by rw [State.loadRegs_readByte, State.loadRegs_readByte, hread])

theorem AgreeOff.resultThenFlag (x : RegIdx) {o o' : AluOut} (ho : o' = o) :
    AgreeOff E R (s.resultThenFlag x o) (s'.resultThenFlag x o') := by
  subst ho
  exact (h.setV x rfl).setV 0xF rfl

theorem AgreeOff.writeResultAndFlag (x : RegIdx) {o o' : AluOut} (hconfig : .config ∉ E) (ho : o' = o) :
    AgreeOff E R (s.writeResultAndFlag x o) (s'.writeResultAndFlag x o') := by
  subst ho
  have hconfig := h.config hconfig
  unfold State.writeResultAndFlag
  rw [hconfig]
  cases s.config.vfDest with
  | flagLast => exact h.resultThenFlag x rfl
  | textual => exact (h.setV 0xF rfl).setV x rfl

theorem AgreeOff.loadDraw {r r' : Byte} (x : RegIdx) (kk : Byte) (hr : r' = r) :
    AgreeOff E R (s.loadDraw r x kk) (s'.loadDraw r' x kk) := by
  refine h.update (s.unchanged_loadDraw _ _ _) (s'.unchanged_loadDraw _ _ _) (List.forall_mem_cons.2 ⟨fun hv => ?_,
    List.forall_mem_singleton.2 fun hd => State.Same.sameOff ?_ R⟩)
  · exact h.setV x (by rw [hr]) .v hv
  · exact congrArg (· + 1) (h.draws hd)

theorem AgreeOff.latch (f : FaultCode) {fpc fpc' : Word} (fop : Word) (hpc : fpc' = fpc) :
    AgreeOff E R (s.latch f fpc fop) (s'.latch f fpc' fop) :=
  h.updatePart (s.unchanged_latch _ _ _) (s'.unchanged_latch _ _ _) fun _ => by rw [hpc]; rfl

theorem AgreeOff.rewind : AgreeOff E R s.rewind s'.rewind :=
  h.updatePart s.unchanged_rewind s'.unchanged_rewind fun hpc =>
    congrArg (· - 2) (h.pc hpc)

theorem AgreeOff.skipIf {c c' : Bool} (hc : c' = c) : AgreeOff E R (s.skipIf c) (s'.skipIf c') :=
  h.updatePart (s.unchanged_skipIf _) (s'.unchanged_skipIf _) fun hpc => by
    have hpc := h.pc hpc
    simp only [State.Same, State.skipIf_pc, hc, hpc]

theorem AgreeOff.jump {a a' : Word} (ha : a' = a) : AgreeOff E R (s.jump a) (s'.jump a') :=
  h.updatePart (s.unchanged_jump _) (s'.unchanged_jump _) fun _ => ha

theorem AgreeOff.pop : AgreeOff E R s.pop s'.pop :=
  h.updatePart s.unchanged_pop s'.unchanged_pop fun hsp => by
    have hsp := h.sp hsp
    simp only [State.Same, State.pop_sp, hsp]

theorem AgreeOff.push {a a' : Word} (hsp : .sp ∉ E) (ha : a' = a) (hr : s.sp.val < 16) (hr' : s'.sp.val < 16) :
    AgreeOff E R (s.push a hr) (s'.push a' hr') := by
  have hsp := h.sp hsp
  refine h.update (s.unchanged_push _ _) (s'.unchanged_push _ _) (List.forall_mem_cons.2 ⟨fun _ => ?_,
    List.forall_mem_singleton.2 fun hst => ?_⟩)
  · exact State.Same.sameOff (by simp only [State.Same, State.push_sp, hsp]) R
  · have hst := h.stack hst
    exact State.Same.sameOff (by simp only [State.Same, State.push_stack, hsp, hst, ha]) R

theorem AgreeOff.setI {a a' : Word} (ha : a' = a) : AgreeOff E R (s.setI a) (s'.setI a') :=
  h.updatePart (s.unchanged_setI _) (s'.unchanged_setI _) fun _ => ha

theorem AgreeOff.addI {a a' : Word} (ha : a' = a) : AgreeOff E R (s.setI (s.i + a)) (s'.setI (s'.i + a')) :=
  h.updatePart (s.unchanged_setI _) (s'.unchanged_setI _) fun hi =>
    congrArg₂ (· + ·) (h.i hi) ha

theorem AgreeOff.setFb {f f' : Screen} (hf : f' = f) : AgreeOff E R (s.setFb f) (s'.setFb f') :=
  h.updatePart (s.unchanged_setFb _) (s'.unchanged_setFb _) fun _ => hf

theorem AgreeOff.setDt {b b' : Byte} (hb : b' = b) : AgreeOff E R (s.setDt b) (s'.setDt b') :=
  h.updatePart (s.unchanged_setDt _) (s'.unchanged_setDt _) fun _ => hb

theorem AgreeOff.setSt {b b' : Byte} (hb : b' = b) : AgreeOff E R (s.setSt b) (s'.setSt b') :=
  h.updatePart (s.unchanged_setSt _) (s'.unchanged_setSt _) fun _ => hb

theorem AgreeOff.writeBytes {a a' : Nat} {bs bs' : List Byte} (ha : a' = a) (hbs : bs' = bs) :
    AgreeOff E R (s.writeBytes a bs) (s'.writeBytes a' bs') :=
  h.updatePart (s.unchanged_writeBytes _ _) (s'.unchanged_writeBytes _ _) fun hmem k => by
    have hmem := h.readByte hmem
    rw [State.readByte_writeBytes, State.readByte_writeBytes, ha, hbs, hmem]

end

/-! ## The parts an instruction reads -/

/-- The parts, V aside, on which what an instruction writes to some other part depends: PC for one that can fault, since
STATUS takes the faulting address. A part that only its own next value depends on (PC of a skip, I of Fx1E) is not
listed. -/
def partReads : Instr → List Part
  | .sys _ => [.config, .pc]
  | .ret => [.sp, .stack, .pc]
  | .call _ => [.sp, .pc]
  | .sub _ _ | .shr _ _ | .subn _ _ | .shl _ _ | .ldFX _ => [.config]
  | .rnd _ _ => [.draws]
  | .drw _ _ _ => [.mem, .i, .fb, .pc]
  | .skp _ | .sknp _ => [.key, .pc]
  | .ldXDt _ => [.dt]
  | .ldXK _ => [.key, .config]
  | .ldBX _ | .ldMemX _ => [.i, .pc]
  | .ldXMem _ => [.mem, .i, .pc]
  | .cls | .jp _ | .seKk _ _ | .sneKk _ _ | .seXy _ _ | .ldKk _ _ | .addKk _ _ | .ldXy _ _ | .or _ _ | .and _ _
  | .xor _ _ | .addXy _ _ | .sneXy _ _ | .ldI _ | .jpV0 _ | .ldDtX _ | .ldStX _ | .addIX _ => []

/-- Both answers are next states, and these agree. -/
def BothAgree (E : List Part) (R : List RegIdx) (r r' : Result) : Prop :=
  ∃ t t', r = .next t ∧ r' = .next t' ∧ AgreeOff E R t t'

theorem AgreeOff.bothAgree {E : List Part} {R : List RegIdx} {t t' : State} (h : AgreeOff E R t t') :
    BothAgree E R (.next t) (.next t') := ⟨t, t', rfl, rfl, h⟩

theorem bothAgree_ite {E : List Part} {R : List RegIdx} {c c' : Prop} [Decidable c] [Decidable c']
    {r₁ r₂ r₁' r₂' : Result}
    (hc : c' ↔ c) (h₁ : BothAgree E R r₁ r₁') (h₂ : BothAgree E R r₂ r₂') :
    BothAgree E R (if c then r₁ else r₂) (if c' then r₁' else r₂') := by
  simp only [hc]
  split
  · exact h₁
  · exact h₂

section
variable {E : List Part} {R : List RegIdx} {s s' : State} (h : AgreeOff E R s s')
include h

theorem AgreeOff.raise (f : FaultCode) (op : Word) (hpc : .pc ∉ E) : BothAgree E R (raise f op s) (raise f op s') :=
  (h.latch f op (congrArg (· - 2) (h.pc hpc))).bothAgree

theorem AgreeOff.execSys (nnn : BitVec 12) (hconfig : .config ∉ E) (hpc : .pc ∉ E) :
    BothAgree E R (execSys nnn s) (execSys nnn s') := by
  have hconfig := h.config hconfig
  unfold Machine.execSys
  rw [hconfig]
  cases s.config.sysPolicy with
  | fault => exact h.raise _ _ hpc
  | nop => exact h.bothAgree

theorem AgreeOff.execRet (hsp : .sp ∉ E) (hstack : .stack ∉ E) (hpc : .pc ∉ E) :
    BothAgree E R (execRet s) (execRet s') :=
  bothAgree_ite (by rw [h.sp hsp]) (h.raise _ _ hpc)
    (h.pop.jump (h.pop.top hsp hstack)).bothAgree

theorem AgreeOff.execCall (nnn : BitVec 12) (hsp : .sp ∉ E) (hpc : .pc ∉ E) :
    BothAgree E R (execCall nnn s) (execCall nnn s') := by
  have hsp' := h.sp hsp
  by_cases hroom : s.sp.val < 16
  · have hroom' : s'.sp.val < 16 := hsp' ▸ hroom
    rw [execCall_of_room s nnn hroom, execCall_of_room s' nnn hroom']
    exact ((h.push hsp (h.pc hpc) hroom hroom').jump rfl).bothAgree
  · rw [execCall_of_full s nnn hroom, execCall_of_full s' nnn (hsp' ▸ hroom)]
    exact h.raise .stackOverflow _ hpc

theorem AgreeOff.skipOnKey {x : RegIdx} (op : Word) (pressed : Bool) (hx : s'.getV x = s.getV x) (hkey : .key ∉ E)
    (hpc : .pc ∉ E) : BothAgree E R (skipOnKey x op pressed s) (skipOnKey x op pressed s') := by
  unfold Machine.skipOnKey
  rw [hx, h.key hkey]
  cases keyOperand (s.getV x) with
  | some k => exact (h.skipIf rfl).bothAgree
  | none => exact h.raise _ _ hpc

theorem AgreeOff.execLdXK (x : RegIdx) (hkey : .key ∉ E) (hconfig : .config ∉ E) :
    BothAgree E R (execLdXK x s) (execLdXK x s') := by
  have hkey := h.key hkey
  have hconfig := h.config hconfig
  exact bothAgree_ite (by rw [hkey]) h.rewind.bothAgree (h.setV x (by rw [hkey, hconfig])).bothAgree

/-- A memory instruction whose range starts at I: both check alike, and both fault alike. -/
theorem AgreeOff.rangeOk {t t' : State} (len : Nat) (op : Word) (hi : .i ∉ E) (hpc : .pc ∉ E) (ht : AgreeOff E R t t') :
    BothAgree E R (if rangeOk s.base len then .next t else Machine.raise .outOfBounds op s)
      (if rangeOk s'.base len then .next t' else Machine.raise .outOfBounds op s') :=
  bothAgree_ite (by rw [h.base hi]) ht.bothAgree (h.raise _ _ hpc)

/-- An instruction that reads no part in `E` and no register in `R` keeps the agreement off them. -/
theorem AgreeOff.exec (i : Instr) (hv : .v ∉ E) (hE : ∀ p ∈ partReads i, p ∉ E) (hR : ∀ x ∈ tableReads i, x ∉ R) :
    BothAgree E R (exec i s) (exec i s') := by
  have hp {p : Part} (hp : p ∈ partReads i := by simp [partReads]) : p ∉ E := hE p hp
  have hx {x : RegIdx} (hx : x ∈ tableReads i := by simp [tableReads]) : x ∉ R := hR x hx
  have hreg {x : RegIdx} (hx : x ∈ tableReads i := by simp [tableReads]) : s'.getV x = s.getV x := h.getV hv (hR x hx)
  cases i with
  | sys nnn => exact h.execSys nnn hp hp
  | ret => exact h.execRet hp hp hp
  | call nnn => exact h.execCall nnn hp hp
  | skp x =>
    rw [exec_skp, exec_skp]
    exact h.skipOnKey _ _ hreg hp hp
  | sknp x =>
    rw [exec_sknp, exec_sknp]
    exact h.skipOnKey _ _ hreg hp hp
  | ldXK x => exact h.execLdXK x hp hp
  | drw x y n =>
    have hdraw := h.drawSprite (x := x) (y := y) n.toNat hp hp hp hv hx hx
    exact h.rangeOk _ _ hp hp ((h.setFb (by rw [hdraw])).setV 0xF (by rw [hdraw]))
  | ldBX x => exact h.rangeOk _ _ hp hp (h.writeBytes (h.base hp) (by rw [hreg]))
  | ldMemX x => exact h.rangeOk _ _ hp hp (h.writeBytes (h.base hp) (h.regBytes hv hR))
  | ldXMem x => exact h.rangeOk _ _ hp hp (h.loadRegs _ hp (h.base hp))
  | cls => exact (h.setFb rfl).bothAgree
  | jp nnn => exact (h.jump rfl).bothAgree
  | jpV0 nnn => exact (h.jump (by rw [jumpV0Target, jumpV0Target, hreg])).bothAgree
  | seKk | sneKk => exact (h.skipIf (by rw [hreg])).bothAgree
  | seXy x y | sneXy x y => exact (h.skipIf (by rw [hreg (x := x), hreg (x := y)])).bothAgree
  | ldKk x kk => exact (h.setV x rfl).bothAgree
  | addKk | ldXy => exact (h.setV _ (by rw [hreg])).bothAgree
  | or x y | and x y | xor x y => exact (h.setV x (by rw [hreg (x := x), hreg (x := y)])).bothAgree
  | addXy x y => exact (h.resultThenFlag x (by rw [hreg (x := x), hreg (x := y)])).bothAgree
  | sub x y | subn x y => exact (h.writeResultAndFlag x hp (by rw [hreg (x := x), hreg (x := y)])).bothAgree
  | shr | shl => exact (h.writeResultAndFlag _ hp (by rw [hreg])).bothAgree
  | rnd x kk => exact (h.loadDraw x kk (by rw [h.draws hp])).bothAgree
  | ldXDt x => exact (h.setV x (h.dt hp)).bothAgree
  | ldDtX x => exact (h.setDt hreg).bothAgree
  | ldStX x => exact (h.setSt hreg).bothAgree
  | ldI nnn => exact (h.setI rfl).bothAgree
  | addIX x => exact (h.addI (by rw [hreg])).bothAgree
  | ldFX x => exact (h.setI (by rw [hreg, h.config hp])).bothAgree

end

/-! ## The readers of one part -/

/-- Two states that differ in part `p` alone still differ in `p` alone after an instruction that does not read it. -/
theorem exec_unchanged_of_notMem_partReads {i : Instr} {p : Part} {s s' : State} (hs : Unchanged [p] s s')
    (hp : p ∉ partReads i) (hv : p ≠ .v := by simp) :
    ∃ t t', exec i s = .next t ∧ exec i s' = .next t' ∧ Unchanged [p] t t' := by
  obtain ⟨t, t', ht, ht', hagree⟩ := (agreeOff_nil_iff.2 hs).exec i (by simpa using hv.symm)
    (fun q hq hqp => hp (List.mem_singleton.1 hqp ▸ hq)) (by simp)
  exact ⟨t, t', ht, ht', agreeOff_nil_iff.1 hagree⟩

/-- Settles O26: `s` and `s.setV y b` agree off register y, and so do the next states. -/
theorem onlyTheTableRegistersAreRead : Obligations.OnlyTheTableRegistersAreRead := fun i s y b hy => by
  obtain ⟨t, t', ht, ht', hagree⟩ := (agreeOff_setV s y b).exec i (by simp) (by simp)
    (fun x hx hxy => hy (List.mem_singleton.1 hxy ▸ hx))
  refine ⟨t, t', ht, ht', fun p hp => hagree.same (by simp) (by simpa using hp), sameOff_v.1 (hagree .v (by simp))⟩

theorem i_notMem_partReads {i : Instr}
    (h : ∀ x y n, i ≠ .drw x y n ∧ i ≠ .addIX x ∧ i ≠ .ldBX x ∧ i ≠ .ldMemX x ∧ i ≠ .ldXMem x) : .i ∉ partReads i := by
  cases i <;> simp [partReads] at h ⊢

theorem fb_notMem_partReads {i : Instr} (h : ∀ x y n, i ≠ .drw x y n) : .fb ∉ partReads i := by
  cases i <;> simp [partReads] at h ⊢

theorem dt_notMem_partReads {i : Instr} (h : ∀ x, i ≠ .ldXDt x) : .dt ∉ partReads i := by
  cases i <;> simp [partReads] at h ⊢

theorem st_notMem_partReads (i : Instr) : .st ∉ partReads i := by
  cases i <;> simp [partReads]

theorem key_notMem_partReads {i : Instr} (h : ∀ x, i ≠ .skp x ∧ i ≠ .sknp x ∧ i ≠ .ldXK x) : .key ∉ partReads i := by
  cases i <;> simp [partReads] at h ⊢

/-- Settles O33: the rows of `partWrites` and of `partReads` that name I. -/
theorem indexRegisterHasItsReadersAndWriters : Obligations.IndexRegisterHasItsReadersAndWriters :=
  ⟨fun _ _ _ h hne => i_mem_partWrites (mem_partWrites_of_changed h hne),
    fun _ s a hi => exec_unchanged_of_notMem_partReads (s.unchanged_setI a) (i_notMem_partReads hi)⟩

/-- Settles O37: the rows of `partWrites` and of `partReads` that name the framebuffer. -/
theorem framebufferHasItsReadersAndWriters : Obligations.FramebufferHasItsReadersAndWriters :=
  ⟨fun _ _ _ h hne => fb_mem_partWrites (mem_partWrites_of_changed h hne),
    fun _ s f hi => exec_unchanged_of_notMem_partReads (s.unchanged_setFb f) (fb_notMem_partReads hi)⟩

/-- Settles O44: the rows of `partWrites` and of `partReads` that name DT and ST. -/
theorem timersHaveTheirReadersAndWriters : Obligations.TimersHaveTheirReadersAndWriters :=
  ⟨fun _ _ _ h hne => dt_mem_partWrites (mem_partWrites_of_changed h hne),
    fun _ _ _ h hne => st_mem_partWrites (mem_partWrites_of_changed h hne),
    fun _ s b hi => exec_unchanged_of_notMem_partReads (s.unchanged_setDt b) (dt_notMem_partReads hi),
    fun i s b => exec_unchanged_of_notMem_partReads (s.unchanged_setSt b) (st_notMem_partReads i)⟩

/-- Settles O45: the rows of `partWrites` and of `partReads` that name KEY. -/
theorem keysAreReadByThreeInstructions : Obligations.KeysAreReadByThreeInstructions :=
  ⟨fun i s _ h => (exec_unchanged i s).of_next h .key (key_notMem_partWrites i),
    fun _ s keys hi => exec_unchanged_of_notMem_partReads (s.unchanged_keyIn keys) (key_notMem_partReads hi)⟩

end Sys2Proof.Machine
end

section
/-! The state right after reset, element by element (10_state.md R36, R38), and the outputs of the core
(10_state.md R30, R37). -/

namespace Sys2Proof.Machine

theorem resetByte_of_outside {c : Config} {a : Nat} (h : ¬(c.fontBase.val ≤ a ∧ a < c.fontBase.val + 80)) :
    resetByte c a = 0x00 := dif_neg h

theorem resetByte_of_inside {c : Config} {a : Nat} (h : c.fontBase.val ≤ a ∧ a < c.fontBase.val + 80) :
    resetByte c a = c.fontTable[a - c.fontBase.val]'(by omega) := dif_pos h

/-- With the font at address 0, memory after reset is the font table followed by zeros. -/
theorem resetByte_eq_getD {c : Config} (hbase : c.fontBase = 0) (a : Nat) :
    resetByte c a = c.fontTable.toList.getD a 0x00 := by
  by_cases ha : a < 80
  · rw [resetByte_of_inside (by simp [hbase, ha])]
    simp [hbase, ha]
  · rw [resetByte_of_outside (by simp [hbase]; omega)]
    simp [Nat.le_of_not_lt ha]

theorem State.getV_reset (x : RegIdx) : State.reset.getV x = 0x00 := by simp [State.getV, State.reset]

/-- Settles O1: the font table at FONT_BASE 0 gives the memory, and every other element is a literal of the table. -/
theorem resetStateIsTheResetTable : Obligations.ResetStateIsTheResetTable :=
  ⟨resetByte_eq_getD (c := defaultConfig) rfl, State.getV_reset, rfl, rfl, rfl, fun j hj => by simp [State.reset], rfl,
    rfl, fun k => by simp [keyDown, State.reset], fun row col _ _ => Screen.pixel_clear row col, rfl⟩

theorem State.soundOn_iff (s : State) : s.soundOn = true ↔ s.st.toNat ≠ 0 := by
  simp [State.soundOn, BitVec.toNat_eq]

theorem State.stepResult_of_clear {s : State} (h : s.status.code = .none) : s.stepResult = .ok := if_pos h

theorem State.stepResult_of_fault {s : State} (h : s.status.code ≠ .none) : s.stepResult = .fault s.status.code :=
  if_neg h

/-- Settles O38: the bits of `fb_out`, then `sound_on`, then the two cases of `step_result`. -/
theorem outputsShowTheState : Obligations.OutputsShowTheState := fun s =>
  ⟨fun _ _ hrow hcol => Screen.getLsbD_out s.fb hrow hcol, s.soundOn_iff, State.stepResult_of_clear,
    fun _ hf hcode => hcode ▸ State.stepResult_of_fault (hcode ▸ hf)⟩

end Sys2Proof.Machine
end

section
/-! Memory (20_memory.md): every transition keeps the invariant (R60), only the two stores write a byte, and only in
their ranges (R52), and a store to the next instruction's bytes is what is fetched (R62). -/

namespace Sys2Proof.Machine

/-! ## The transitions and the invariant -/

section
variable {s : State} (h : Inv s)
include h

/-- A state with the PC, the stack and the latch of `s` has only its memory to answer for. -/
theorem Inv.of_memCanonical {t : State} (hmem : Memory.wf t.config t.mem = true) (hpc : t.pc = s.pc := by simp)
    (hstack : t.stack = s.stack := by simp) (hstatus : t.status = s.status := by simp) : Inv t where
  memCanonical := hmem
  pcBound := hpc ▸ h.pcBound
  stackBound := hstack ▸ h.stackBound
  clearLatch := hstatus ▸ h.clearLatch
  noLoadCode := hstatus ▸ h.noLoadCode
  faultPc := hstatus ▸ hpc ▸ h.faultPc
  fetchFaultPc := hstatus ▸ hpc ▸ h.fetchFaultPc

theorem Inv.afterStep : Inv s.afterStep := by
  obtain ⟨t, hstep, ht⟩ := step_keepsInv h
  exact afterStep_of_next hstep ▸ ht

theorem Inv.tickTimers : Inv s.tickTimers := h.of_memCanonical h.memCanonical

theorem Inv.keyIn (keys : Word) : Inv (s.keyIn keys) := h.of_memCanonical h.memCanonical

/-- A ROM that is taken lies inside MEM (70_reset_and_hazards.md R242). -/
theorem Inv.loadRom (rom : List Byte) : Inv (s.loadRom rom).2 := by
  unfold State.loadRom
  split
  · exact h.of_memCanonical (s.writeBytes_wf rom ‹_› h.memCanonical)
  · exact h

end

/-- The host's reset differs from the reset state only in the parameters and the draws, and it lists no byte, so its
memory is canonical under any parameters (70_reset_and_hazards.md R240). -/
theorem State.inv_hostReset (s : State) : Inv s.hostReset :=
  resetMeetsTheInvariant.of_memCanonical rfl rfl rfl rfl

theorem transition_keepsInv (e : Event) (s : State) (h : Inv s) : Inv (transition e s) := by
  cases e with
  | step => exact h.afterStep
  | tick => exact h.tickTimers
  | keys k => exact h.keyIn k
  | reset => exact s.inv_hostReset
  | load rom => exact h.loadRom rom

/-- Settles O57, by induction on the events: every transition of either agent keeps the invariant. -/
theorem everyRunKeepsTheInvariant : Obligations.EveryRunKeepsTheInvariant := fun es _ h =>
  runEvents_induction transition_keepsInv es h

/-! ## The writers of memory (20_memory.md R52) -/

theorem mem_mem_partWrites {i : Instr} (h : .mem ∈ partWrites i) : (∃ x, i = .ldBX x) ∨ ∃ x, i = .ldMemX x := by
  cases i <;> simp [partWrites] at h ⊢

theorem MemUnchangedOutside.range_of_changed {a len b : Nat} {s t : State} (h : MemUnchangedOutside a len s t)
    (hne : t.readByte b ≠ s.readByte b) : a ≤ b ∧ b < a + len := by
  by_contra hb
  exact hne (h b (by omega))

theorem State.memUnchangedOutside_writeBytes (s : State) (a : Nat) (bs : List Byte) :
    MemUnchangedOutside a bs.length s (s.writeBytes a bs) := fun b hb => by
  rw [State.readByte_writeBytes, dif_neg (by omega)]

/-- A store instruction at I: it writes its bytes there, or faults and writes none. -/
theorem store_memUnchangedOutside (s : State) (bs : List Byte) (c : Prop) [Decidable c] (f : FaultCode) (op : Word) :
    Answers (MemUnchangedOutside s.i.toNat bs.length s)
      (if c then .next (s.writeBytes s.i.toNat bs) else raise f op s) :=
  answers_ite (fun _ => answers_next (s.memUnchangedOutside_writeBytes _ bs)) fun _ => answers_next fun _ _ => rfl

theorem exec_ldBX_memUnchangedOutside (x : RegIdx) (s : State) :
    Answers (MemUnchangedOutside s.i.toNat 3 s) (exec (.ldBX x) s) :=
  store_memUnchangedOutside s (bcdDigits (s.getV x)) ..

theorem exec_ldMemX_memUnchangedOutside (x : RegIdx) (s : State) :
    Answers (MemUnchangedOutside s.i.toNat (x.toNat + 1) s) (exec (.ldMemX x) s) := by
  have hlen : (s.regBytes x).length = x.toNat + 1 := s.regBytes_length x
  exact hlen ▸ store_memUnchangedOutside s (s.regBytes x) ..

/-- Settles O47: `partWrites` gives memory to the two stores alone, and each leaves every byte outside its range as it
was. -/
theorem memoryIsWrittenOnlyByTheTwoStores : Obligations.MemoryIsWrittenOnlyByTheTwoStores := by
  intro i s t a h hne
  have hmem : ¬State.Same .mem s t := fun hs => hne (hs a)
  obtain ⟨x, rfl⟩ | ⟨x, rfl⟩ := mem_mem_partWrites (mem_partWrites_of_changed h hmem)
  · exact .inl ⟨x, rfl, ((exec_ldBX_memUnchangedOutside x s).of_next h).range_of_changed hne⟩
  · exact .inr ⟨x, rfl, ((exec_ldMemX_memUnchangedOutside x s).of_next h).range_of_changed hne⟩

/-! ## A store before a fetch (20_memory.md R62) -/

/-- A block store of V0 to Vx puts Vy at offset y (42_index_memory.md R154). -/
theorem State.readByte_writeBytes_regBytes (s : State) (a : Nat) {x y : RegIdx} (hy : y.toNat ≤ x.toNat) :
    (s.writeBytes a (s.regBytes x)).readByte (a + y.toNat) = s.getV y := by
  have hlen : y.toNat < (s.regBytes x).length := by rw [State.regBytes_length, blockLength]; omega
  rw [State.readByte_writeBytes, dif_pos (by omega)]
  simp [State.regBytes_getElem]

/-- Settles O32: the store answers a next state with V0 and V1 at PC and PC + 1, and PC and the latch as they were. -/
theorem storedWordIsFetchedNext : Obligations.StoredWordIsFetchedNext := by
  intro x s hx hi hrange hclear
  refine ⟨_, execLdMemX_of_ok s x (by rw [hi]; omega), ?_, ?_, ?_, ?_⟩
  · simpa using hclear
  · rw [State.writeBytes_pc]; omega
  · rw [State.writeBytes_pc, hi]
    exact (s.readByte_writeBytes_regBytes _ (y := 0x0) (Nat.zero_le _)).trans (highByte_wordOfBytes ..).symm
  · rw [State.writeBytes_pc, hi]
    exact (s.readByte_writeBytes_regBytes _ (y := 0x1) hx).trans (lowByte_wordOfBytes ..).symm

end Sys2Proof.Machine
end

section
/-! Decoding and encoding (30_encoding.md R70 to R72, R83 to R87) are inverse to each other on the well-formed
instructions and the legal words, and the words that decode to nothing are the five illegal spaces (R86). -/

namespace Sys2Proof

/-! ## Decoding an encoded instruction -/

theorem wordNnn_ne {k : BitVec 4} {a b : BitVec 12} (h : a ≠ b) : wordNnn k a ≠ wordNnn k b := fun hw =>
  h (by simpa using congrArg fieldNnn hw)

theorem Instr.wf_sys_iff (nnn : BitVec 12) : (Instr.sys nnn).wf = true ↔ nnn ≠ 0x0E0 ∧ nnn ≠ 0x0EE := by
  simp [Instr.wf, Instr.notClsWord, Instr.notRetWord]

/-- A well-formed SYS has neither the word of CLS nor that of RET (40_control_flow.md R100). -/
theorem dispatch0_sys {nnn : BitVec 12} (h : (Instr.sys nnn).wf = true) :
    dispatch0 (wordNnn 0x0 nnn) = .sys nnn := by
  obtain ⟨hcls, hret⟩ := (Instr.wf_sys_iff nnn).1 h
  calc dispatch0 (wordNnn 0x0 nnn)
    _ = .sys (fieldNnn (wordNnn 0x0 nnn)) := (if_neg (wordNnn_ne hcls)).trans (if_neg (wordNnn_ne hret))
    _ = .sys nnn := by rw [fieldNnn_wordNnn]

/-- The family nibble of the word selects the family, and the word's other fields are the operands and the
sub-selector. -/
theorem decodeWord_encode (i : Instr) (h : i.wf = true) : decodeWord (encode i) = .ok i := by
  cases i with
  | sys nnn => simpa [encode, decodeWord] using dispatch0_sys h
  | cls | ret => rfl
  | jp | call | ldI | jpV0 | seKk | sneKk | ldKk | addKk | rnd | seXy | sneXy | drw => simp [encode, decodeWord]
  | ldXy | or | and | xor | addXy | sub | shr | subn | shl => simp [encode, decodeWord, dispatch8]
  | skp | sknp => simp [encode, decodeWord, dispatchE]
  | ldXDt | ldXK | ldDtX | ldStX | addIX | ldFX | ldBX | ldMemX | ldXMem => simp [encode, decodeWord, dispatchF]

/-- Settles O5: the two bytes make the encoded word again, and that word decodes to its instruction. -/
theorem decodeOfEncodeIsTheInstruction : Obligations.DecodeOfEncodeIsTheInstruction := by
  intro i rest h
  calc decode (encodeBytes i ++ rest)
    _ = (decodeWord (wordOfBytes (highByte (encode i)) (lowByte (encode i)))).map (·, rest) := decode_cons ..
    _ = (Except.ok i).map (·, rest) := by rw [wordOfBytes_bytes, decodeWord_encode i h]
    _ = .ok (i, rest) := rfl

/-- Settles O7: each word is the encoding of its instruction, with no bytes after it. -/
theorem specWordsDecodeToTheirInstructions : Obligations.SpecWordsDecodeToTheirInstructions :=
  have h := decodeOfEncodeIsTheInstruction
  ⟨h .cls [] rfl, h .ret [] rfl, h (.call 0x210) [] rfl, h (.ldKk 0xA 0x5C) [] rfl, h (.shr 0x1 0xA) [] rfl,
    h (.drw 0x1 0x2 0x5) [] rfl, h (.skp 0x5) [] rfl, h (.ldXMem 0x2) [] rfl⟩

/-! ## Encoding a decoded instruction -/

section
variable {w : Word} {k : BitVec 4} (hk : fieldKind w = k)
include hk

theorem wordNnn_of_fieldKind : wordNnn k (fieldNnn w) = w := hk ▸ wordNnn_fields w

theorem wordXkk_of_fieldKind : wordXkk k (fieldX w) (fieldKk w) = w := hk ▸ wordXkk_fields w

theorem wordXyn_of_fieldKind : wordXyn k (fieldX w) (fieldY w) (fieldN w) = w := hk ▸ wordXyn_fields w

theorem wordXkk_of_fieldKk {kk : Byte} (h : fieldKk w = kk) : wordXkk k (fieldX w) kk = w :=
  h ▸ wordXkk_of_fieldKind hk

theorem wordXyn_of_fieldN {n : BitVec 4} (h : fieldN w = n) : wordXyn k (fieldX w) (fieldY w) n = w :=
  h ▸ wordXyn_of_fieldKind hk

end

/-- `r` is a rejection, or a well-formed instruction whose word is `w`. -/
def DecodesFrom (w : Word) (r : Except Reject Instr) : Prop := ∀ i, r = .ok i → encode i = w ∧ i.wf = true

section
variable {w : Word}

theorem decodesFrom_error {e : Reject} : DecodesFrom w (.error e) := nofun

theorem decodesFrom_ok {i : Instr} (h : encode i = w) (hwf : i.wf = true) : DecodesFrom w (.ok i) := by
  rintro _ ⟨⟩
  exact ⟨h, hwf⟩

theorem decodesFrom_ite {c : Prop} [Decidable c] {r r' : Except Reject Instr} (h : c → DecodesFrom w r)
    (h' : ¬c → DecodesFrom w r') : DecodesFrom w (if c then r else r') := by
  split
  · exact h ‹_›
  · exact h' ‹_›

/-- One entry of the dispatch table, of an instruction that is not SYS. -/
theorem decodesFrom_entry {c : Prop} [Decidable c] {i : Instr} {r : Except Reject Instr} (h : c → encode i = w)
    (h' : ¬c → DecodesFrom w r) (hwf : i.wf = true := by rfl) : DecodesFrom w (if c then .ok i else r) :=
  decodesFrom_ite (fun hc => decodesFrom_ok (h hc) hwf) h'

theorem dispatch0_decodesFrom (hk : fieldKind w = 0x0) : DecodesFrom w (.ok (dispatch0 w)) := by
  have hw : wordNnn 0x0 (fieldNnn w) = w := wordNnn_of_fieldKind hk
  unfold dispatch0
  split_ifs with hcls hret
  · exact decodesFrom_ok hcls.symm rfl
  · exact decodesFrom_ok hret.symm rfl
  · have hne {a : BitVec 12} (ha : w ≠ wordNnn 0x0 a) : fieldNnn w ≠ a := fun h => ha (h ▸ hw.symm)
    exact decodesFrom_ok hw ((Instr.wf_sys_iff _).2 ⟨hne hcls, hne hret⟩)

theorem dispatch8_decodesFrom (hk : fieldKind w = 0x8) :
    DecodesFrom w (dispatch8 (fieldX w) (fieldY w) (fieldN w)) := by
  iterate 9 refine decodesFrom_entry (fun hn => wordXyn_of_fieldN hk hn) fun _ => ?_
  exact decodesFrom_error

theorem dispatchE_decodesFrom (hk : fieldKind w = 0xE) : DecodesFrom w (dispatchE (fieldX w) (fieldKk w)) := by
  iterate 2 refine decodesFrom_entry (fun hkk => wordXkk_of_fieldKk hk hkk) fun _ => ?_
  exact decodesFrom_error

theorem dispatchF_decodesFrom (hk : fieldKind w = 0xF) : DecodesFrom w (dispatchF (fieldX w) (fieldKk w)) := by
  iterate 9 refine decodesFrom_entry (fun hkk => wordXkk_of_fieldKk hk hkk) fun _ => ?_
  exact decodesFrom_error

/-- The sixteen families in order. -/
theorem decodeWord_decodesFrom (w : Word) : DecodesFrom w (decodeWord w) := by
  refine decodesFrom_ite dispatch0_decodesFrom fun h0 => ?_
  refine decodesFrom_entry wordNnn_of_fieldKind fun h1 => ?_
  refine decodesFrom_entry wordNnn_of_fieldKind fun h2 => ?_
  refine decodesFrom_entry wordXkk_of_fieldKind fun h3 => ?_
  refine decodesFrom_entry wordXkk_of_fieldKind fun h4 => ?_
  refine decodesFrom_ite (fun hk => decodesFrom_entry (wordXyn_of_fieldN hk) fun _ => decodesFrom_error) fun h5 => ?_
  refine decodesFrom_entry wordXkk_of_fieldKind fun h6 => ?_
  refine decodesFrom_entry wordXkk_of_fieldKind fun h7 => ?_
  refine decodesFrom_ite dispatch8_decodesFrom fun h8 => ?_
  refine decodesFrom_ite (fun hk => decodesFrom_entry (wordXyn_of_fieldN hk) fun _ => decodesFrom_error) fun h9 => ?_
  refine decodesFrom_entry wordNnn_of_fieldKind fun hA => ?_
  refine decodesFrom_entry wordNnn_of_fieldKind fun hB => ?_
  refine decodesFrom_entry wordXkk_of_fieldKind fun hC => ?_
  refine decodesFrom_entry wordXyn_of_fieldKind fun hD => ?_
  refine decodesFrom_ite dispatchE_decodesFrom fun hE => ?_
  have hF : fieldKind w = 0xF := by bv_omega
  exact dispatchF_decodesFrom hF

end

/-- Settles O6: every entry of the dispatch table takes its operands from the fields that its instruction's word is
built of. -/
theorem encodeOfDecodeIsTheWord : Obligations.EncodeOfDecodeIsTheWord := decodeWord_decodesFrom

/-! ## The illegal spaces -/

theorem toNat_fieldKind (w : Word) : (fieldKind w).toNat = w.toNat / 4096 := by
  have hlt : w.toNat / 4096 < 16 := by omega
  simp [fieldKind, Nat.shiftRight_eq_div_pow, Nat.mod_eq_of_lt hlt]

theorem toNat_fieldN (w : Word) : (fieldN w).toNat = w.toNat % 16 := by simp [fieldN]

theorem toNat_fieldKk (w : Word) : (fieldKk w).toNat = w.toNat % 256 := by simp [fieldKk]

/-- The decoder's answer is a rejection (30_encoding.md R84). -/
def Rejects (r : Except Reject Instr) : Prop := ∃ e, r = .error e

@[simp] theorem not_rejects_ok (i : Instr) : ¬Rejects (.ok i) := nofun

@[simp] theorem rejects_error (e : Reject) : Rejects (.error e) := ⟨e, rfl⟩

@[simp] theorem rejects_ite {c : Prop} [Decidable c] {r r' : Except Reject Instr} :
    Rejects (if c then r else r') ↔ if c then Rejects r else Rejects r' := by
  split <;> rfl

theorem rejects_dispatch8 (x y n : BitVec 4) :
    Rejects (dispatch8 x y n) ↔ n.toNat ∈ [0x8, 0x9, 0xA, 0xB, 0xC, 0xD, 0xF] := by
  simp [dispatch8, BitVec.toNat_eq]
  omega

theorem rejects_dispatchE (x : RegIdx) (kk : Byte) : Rejects (dispatchE x kk) ↔ kk.toNat ∉ [0x9E, 0xA1] := by
  simp [dispatchE, BitVec.toNat_eq]

theorem rejects_dispatchF (x : RegIdx) (kk : Byte) :
    Rejects (dispatchF x kk) ↔ kk.toNat ∉ [0x07, 0x0A, 0x15, 0x18, 0x1E, 0x29, 0x33, 0x55, 0x65] := by
  simp [dispatchF, BitVec.toNat_eq]

/-- Settles O4, family nibble by family nibble: 5 and 9 reject on the low nibble, and 8, E and F by their
sub-selectors. -/
theorem illegalWordsAreTheFiveReservedSpaces : Obligations.IllegalWordsAreTheFiveReservedSpaces := by
  intro w
  have hlt : w.toNat / 4096 < 16 := by omega
  change Rejects (decodeWord w) ↔ _
  simp only [decodeWord, rejects_ite, not_rejects_ok, rejects_error, rejects_dispatch8, rejects_dispatchE,
    rejects_dispatchF, BitVec.toNat_eq, toNat_fieldKind, toNat_fieldN, toNat_fieldKk]
  generalize w.toNat / 4096 = k at hlt ⊢
  interval_cases k <;> simp

end Sys2Proof
end

section
/-! The four ways a step can go (30_encoding.md R80): the state the statement writes out for each is the state of the
model's own updates. -/

namespace Sys2Proof.Machine

theorem AtWord.fetches {w : Word} {s : State} (h : AtWord w s) :
    s.status.code = .none ∧ s.canFetch = true ∧ s.fetchWord = w := by
  obtain ⟨hclear, hpc, hhi, hlo⟩ := h
  refine ⟨hclear, canFetch_iff.2 hpc, ?_⟩
  rw [State.fetchWord, hhi, hlo]
  exact wordOfBytes_bytes w

theorem AtWord.step_eq_exec {w : Word} {s : State} {i : Instr} (h : AtWord w s) (hd : decodeWord w = .ok i) :
    step s = exec i s.advance := by
  obtain ⟨hclear, hfetch, rfl⟩ := h.fetches
  exact step_of_decoded hclear hfetch hd

/-- The latched PC is the instruction's own: `raise` takes the advance back (60_exceptions.md R214). -/
theorem raise_advance (f : FaultCode) (op : Word) (s : State) :
    raise f op s.advance = .next (s.advance.latch f s.pc op) := by
  rw [raise, State.advance_pc, BitVec.add_sub_cancel]

theorem AtWord.step_eq_latch {w : Word} {s : State} {r : Reject} (h : AtWord w s) (hd : decodeWord w = .error r) :
    step s = .next (s.advance.latch .unknownOpcode s.pc w) := by
  obtain ⟨hclear, hfetch, rfl⟩ := h.fetches
  rw [step_of_illegal hclear hfetch hd, raise_advance]

/-- Settles O3: the latched fault, the fetch fault, the decoded instruction and the illegal word, one after another. -/
theorem stepRunsTheDecodedInstruction : Obligations.StepRunsTheDecodedInstruction := fun _ =>
  ⟨step_of_latched, fun hclear hpc => step_of_fetchFault hclear (canFetch_eq_false_iff.2 hpc),
    fun _ _ hw hd => hw.step_eq_exec hd, fun _ _ hw hd => hw.step_eq_latch hd⟩

end Sys2Proof.Machine
end

section
/-! Control flow and the stack (40_control_flow.md): RET and CALL (R101, R103), the two laws of the call stack (R110),
SYS (R100), the jumps (R102, R108) and the skips (R104 to R107). -/

namespace Sys2Proof.Machine

/-! ## CALL and RET -/

section
variable (s : State)

theorem State.unchanged_pop_jump (a : Word) : Unchanged [.sp, .pc] s (s.pop.jump a) :=
  s.unchanged_pop.trans (State.unchanged_jump _ a)

theorem State.unchanged_push_jump (a b : Word) (h : s.sp.val < 16) :
    Unchanged [.sp, .stack, .pc] s ((s.push a h).jump b) :=
  (s.unchanged_push a h).trans (State.unchanged_jump _ b)

end

/-- Settles O10: the empty stack faults, and SP = j + 1 pops entry j. -/
theorem retPopsOrUnderflows : Obligations.RetPopsOrUnderflows := by
  refine ⟨rfl, fun s => ⟨fun hempty => ?_, fun j hj hsp => ?_⟩⟩
  · exact ⟨_, execRet_of_empty s hempty, takesFault_latch ..⟩
  · refine ⟨_, execRet_of_nonempty s (by omega), ?_, ?_, s.unchanged_pop_jump _⟩
    · simp [hsp]
    · simp [hsp]

/-- Settles O11: a full stack faults, and a stack with room takes PC at entry SP. -/
theorem callPushesOrOverflows : Obligations.CallPushesOrOverflows := by
  refine fun nnn s => ⟨decodeWord_encode (.call nnn) rfl, fun hfull => ?_, fun hroom => ?_⟩
  · exact ⟨_, execCall_of_full s nnn (by omega), takesFault_latch ..⟩
  · refine ⟨_, execCall_of_room s nnn hroom, rfl, zextNnn_toNat nnn, fun j hj => ?_,
      (s.unchanged_push_jump _ _ hroom).mono (by simp)⟩
    simp [Vector.getElem_set, eq_comm (a := j)]

/-- A RET right after a CALL, wherever it stands, pops the address the CALL pushed (40_control_flow.md R110). -/
theorem execRet_push (s : State) (a p : Word) (h : s.sp.val < 16) :
    execRet ((s.push a h).jump p) = .next (((s.push a h).jump p).pop.jump a) := by
  rw [execRet_of_nonempty _ (by simp)]
  simp

/-- A part that has its old value again counts as unchanged. -/
theorem Unchanged.of_same {p : Part} {W : List Part} {s t : State} (h : Unchanged (p :: W) s t)
    (hp : State.Same p s t) : Unchanged W s t := fun q hq => by
  by_cases hqp : q = p
  · exact hqp ▸ hp
  · exact h q (by simp [hqp, hq])

/-- Settles O15: RET pops what CALL pushed, so SP and PC are restored, and STACK is the only other part written. -/
theorem callThenReturnRestoresPcAndSp : Obligations.CallThenReturnRestoresPcAndSp := by
  intro nnn s p hroom
  refine ⟨_, _, execCall_of_room s nnn hroom, execRet_push s s.pc p hroom, rfl, rfl, ?_⟩
  have hframe := (s.unchanged_push_jump s.pc p hroom).trans (State.unchanged_pop_jump _ s.pc)
  have hwritten := hframe.mono (W' := [.sp, .pc, .stack]) (by simp)
  exact (hwritten.of_same rfl).of_same rfl

/-! ## The depth of the stack (40_control_flow.md R110) -/

theorem execAll_cons_of_next {i : Instr} {s t : State} (h : exec i s = .next t) (is : List Instr) :
    execAll (i :: is) s = execAll is t := by
  simp only [execAll, h]

theorem execAll_append_of_next {is : List Instr} {s t : State} (h : execAll is s = .next t) (js : List Instr) :
    execAll (is ++ js) s = execAll js t := by
  induction is generalizing s with
  | nil =>
    obtain rfl : s = t := by simpa [execAll] using h
    rfl
  | cons i is ih =>
    obtain ⟨u, hi, -⟩ := exec_unchanged i s
    rw [execAll_cons_of_next hi] at h
    exact (execAll_cons_of_next hi _).trans (ih h)

/-- Calls that fit the stack raise SP by one each and fault nowhere. -/
theorem execAll_calls (targets : List (BitVec 12)) {s : State} (h : s.sp.val + targets.length ≤ 16) :
    Answers (fun t => t.sp.val = s.sp.val + targets.length ∧ t.status = s.status)
      (execAll (targets.map .call) s) := by
  induction targets generalizing s with
  | nil => exact answers_next ⟨rfl, rfl⟩
  | cons nnn targets ih =>
    rw [List.length_cons] at h
    have hroom : s.sp.val < 16 := by omega
    rw [List.map_cons, execAll_cons_of_next (i := .call nnn) (execCall_of_room s nnn hroom)]
    obtain ⟨t, ht, hsp, hstatus⟩ := ih (s := (s.push s.pc hroom).jump (zextNnn nnn)) (by
      simp only [State.jump_sp, State.push_sp]; omega)
    refine ⟨t, ht, ?_, hstatus⟩
    simp only [State.jump_sp, State.push_sp] at hsp
    rw [List.length_cons]; omega

/-- Settles O16: `execAll_calls` from the empty stack; after sixteen calls the seventeenth finds it full. -/
theorem sixteenCallsSucceedAndTheSeventeenthOverflows : Obligations.SixteenCallsSucceedAndTheSeventeenthOverflows := by
  refine fun targets s hempty _ => ⟨fun hlen => ?_, fun hlen => ?_⟩
  · obtain ⟨t, ht, hsp, hstatus⟩ := execAll_calls targets (s := s) (by omega)
    exact ⟨t, ht, by omega, hstatus⟩
  · obtain rfl | ⟨calls, last, rfl⟩ := targets.eq_nil_or_concat'
    · nomatch hlen
    · have hcalls : calls.length = 16 := by simpa using hlen
      obtain ⟨t, ht, hsp, -⟩ := execAll_calls calls (s := s) (by omega)
      have hlast : exec (.call last) t = _ := execCall_of_full t last (by omega)
      rw [List.map_append, execAll_append_of_next ht]
      exact ⟨_, execAll_cons_of_next hlast [], by rw [State.latch_sp]; omega, rfl⟩

/-! ## SYS -/

theorem execSys_of_fault {s : State} (h : s.config.sysPolicy = .fault) (nnn : BitVec 12) :
    execSys nnn s = .next (s.latch .unknownOpcode (s.pc - 2) (encode (.sys nnn))) := by
  simp [execSys, h, raise]

theorem execSys_of_nop {s : State} (h : s.config.sysPolicy = .nop) (nnn : BitVec 12) : execSys nnn s = .next s := by
  simp [execSys, h]

/-- Settles O9: one lemma per SYS_POLICY. -/
theorem sysFaultsOrDoesNothing : Obligations.SysFaultsOrDoesNothing := fun nnn _ =>
  ⟨fun hfault => ⟨_, execSys_of_fault hfault nnn, takesFault_latch ..⟩, fun hnop => execSys_of_nop hnop nnn⟩

/-! ## Jumps and skips -/

/-- Settles O12: both are one jump, and neither target wraps. -/
theorem jumpsWriteTheProgramCounter : Obligations.JumpsWriteTheProgramCounter := fun nnn s =>
  ⟨decodeWord_encode (.jp nnn) rfl, decodeWord_encode (.jpV0 nnn) rfl,
    ⟨_, rfl, zextNnn_toNat nnn, s.unchanged_jump _⟩, ⟨_, rfl, jumpV0Target_toNat nnn s, s.unchanged_jump _⟩⟩

/-- A skip taken under `P` and not taken under `Q`. -/
theorem answers_skipIf (s : State) {c : Bool} {P Q : Prop} (hP : P → c = true) (hQ : Q → c = false) :
    Answers (fun t => (P → t.pc = s.pc + 2) ∧ (Q → t.pc = s.pc) ∧ Unchanged [.pc] s t) (.next (s.skipIf c)) :=
  answers_next ⟨fun h => by simp [State.skipIf_pc, hP h], fun h => by simp [State.skipIf_pc, hQ h],
    s.unchanged_skipIf c⟩

/-- Settles O13: SE skips under `==` and SNE under `!=`. -/
theorem skipsOnAnImmediate : Obligations.SkipsOnAnImmediate := fun x kk s =>
  ⟨decodeWord_encode (.seKk x kk) rfl, decodeWord_encode (.sneKk x kk) rfl,
    answers_skipIf s beq_iff_eq.2 beq_false_of_ne, answers_skipIf s bne_iff_ne.2 fun h => by simp [h]⟩

/-- Settles O14: SE skips under `==` and SNE under `!=`, on the two registers as they were read. -/
theorem skipsOnTwoRegisters : Obligations.SkipsOnTwoRegisters := fun x y s =>
  ⟨decodeWord_encode (.seXy x y) rfl, decodeWord_encode (.sneXy x y) rfl,
    answers_skipIf s beq_iff_eq.2 beq_false_of_ne, answers_skipIf s bne_iff_ne.2 fun h => by simp [h]⟩

end Sys2Proof.Machine
end

section
/-! The ALU and the register moves (41_alu.md): the loads of one register (R122 to R127), a result with its flag (R121,
R128 to R132), the random draw (R133), and what VF_DEST_POLICY is read for (R121). -/

namespace Sys2Proof.Machine

/-! ## A result and its flag (41_alu.md R121) -/

/-- A flag that decides `c`, as the number VF holds. -/
theorem toNat_flagByte_decide (c : Prop) [Decidable c] : (flagByte (decide c)).toNat = if c then 1 else 0 := by
  by_cases hc : c <;> simp [flagByte, hc]

/-- A flag that is a bit, as the number VF holds. -/
theorem toNat_flagByte (f : Bool) : (flagByte f).toNat = f.toNat := by cases f <;> rfl

/-- The no-borrow difference; 8xy7 is this with the operands exchanged. -/
theorem toNat_aluSub_result (a b : Byte) : (aluSub a b).result.toNat = (a.toNat + (256 - b.toNat)) % 256 := by
  simp only [aluSub, BitVec.toNat_sub]; omega

theorem toNat_aluShr_result (a : Byte) : (aluShr a).result.toNat = a.toNat / 2 := by
  simp [aluShr, Nat.shiftRight_eq_div_pow]

theorem toNat_aluShr_flag (a : Byte) : (flagByte (aluShr a).flag).toNat = a.toNat % 2 := by
  rw [toNat_flagByte, aluShr, BitVec.getLsbD, Nat.toNat_testBit, pow_zero, Nat.div_one]

theorem toNat_aluShl_result (a : Byte) : (aluShl a).result.toNat = a.toNat * 2 % 256 := by
  simp [aluShl, Nat.shiftLeft_eq]

theorem toNat_aluShl_flag (a : Byte) : (flagByte (aluShl a).flag).toNat = a.toNat / 128 := by
  have ha := a.isLt
  rw [toNat_flagByte, aluShl, BitVec.getLsbD, Nat.toNat_testBit]
  omega

section
variable (s : State)

/-- `WriteResultAndFlag` writes a result and a flag as R121 says, whatever the policy. -/
theorem answers_writeResultAndFlag (x : RegIdx) {o : AluOut} {r f : Nat} (hr : o.result.toNat = r)
    (hf : (flagByte o.flag).toNat = f) :
    Answers (ResultAndFlagWritten x r f s) (.next (s.writeResultAndFlag x o)) := by
  subst hr hf
  refine answers_next ⟨fun hx => ?_, fun hx hlast => ?_, fun hx htext => ?_, s.regsUnchanged_writeResultAndFlag x o,
    s.unchanged_writeResultAndFlag x o⟩
  · rw [State.getV_writeResultAndFlag, if_pos ⟨rfl, .inl hx⟩, State.getV_writeResultAndFlag,
      if_neg fun h => hx h.1.symm, if_pos rfl]
    exact ⟨rfl, rfl⟩
  · simp [State.getV_writeResultAndFlag, hx, hlast]
  · simp [State.getV_writeResultAndFlag, hx, htext]

end

/-- Settles O19: VF is written after Vx, and both operands were read before. -/
theorem addGivesTheSumAndTheCarry : Obligations.AddGivesTheSumAndTheCarry := by
  refine fun x y s => ⟨decodeWord_encode (.addXy x y) rfl, _, rfl, fun hx => ?_, ?_,
    s.regsUnchanged_resultThenFlag x _, s.unchanged_resultThenFlag x _⟩
  · rw [State.getV_resultThenFlag, if_neg hx, if_pos rfl]
    exact BitVec.toNat_add ..
  · rw [State.getV_resultThenFlag, if_pos rfl]
    exact toNat_flagByte_decide _

/-- Settles O20: the difference and the no-borrow flag of `aluSub`, written under either policy. -/
theorem subtractionsGiveTheDifferenceAndNoBorrow : Obligations.SubtractionsGiveTheDifferenceAndNoBorrow :=
  fun x y s => ⟨decodeWord_encode (.sub x y) rfl, decodeWord_encode (.subn x y) rfl,
    answers_writeResultAndFlag s x (toNat_aluSub_result (s.getV x) (s.getV y)) (toNat_flagByte_decide _),
    answers_writeResultAndFlag s x (toNat_aluSub_result (s.getV y) (s.getV x)) (toNat_flagByte_decide _)⟩

/-- Settles O21: the halves and the bits of `aluShr` and `aluShl`, written under either policy. -/
theorem shiftsGiveTheShiftedBitInVf : Obligations.ShiftsGiveTheShiftedBitInVf :=
  fun x y s => ⟨decodeWord_encode (.shr x y) rfl, decodeWord_encode (.shl x y) rfl,
    answers_writeResultAndFlag s x (toNat_aluShr_result _) (toNat_aluShr_flag _),
    answers_writeResultAndFlag s x (toNat_aluShl_result _) (toNat_aluShl_flag _)⟩

/-! ## The loads of one register -/

section
variable (s : State) (x : RegIdx) (b : Byte)

/-- A load of Vx changes no other register and no other part. -/
theorem State.frame_setV : RegsUnchanged [x] s (s.setV x b) ∧ Unchanged [.v] s (s.setV x b) :=
  ⟨s.regsUnchanged_setV b (by simp), s.unchanged_setV x b⟩

/-- A load of Vx with a byte whose bits are `bit`. -/
theorem answers_setV_bits {bit : Nat → Bool} (hbit : ∀ k, b.getLsbD k = bit k) :
    Answers (fun t => RegsUnchanged [x] s t ∧ Unchanged [.v] s t ∧ ∀ k, (t.getV x).getLsbD k = bit k)
      (.next (s.setV x b)) := by
  obtain ⟨hregs, hparts⟩ := s.frame_setV x b
  exact answers_next ⟨hregs, hparts, fun k => by rw [State.getV_setV_same, hbit]⟩

end

/-- Settles O17: three loads of Vx, the second with a sum modulo 256. -/
theorem loadAddImmediateAndMove : Obligations.LoadAddImmediateAndMove := by
  refine fun x y kk s => ⟨decodeWord_encode (.ldKk x kk) rfl, decodeWord_encode (.addKk x kk) rfl,
    decodeWord_encode (.ldXy x y) rfl, ⟨_, rfl, s.getV_setV_same x _, s.frame_setV x _⟩,
    ⟨_, rfl, ?_, s.frame_setV x _⟩, ⟨_, rfl, s.getV_setV_same x _, s.frame_setV x _⟩⟩
  rw [State.getV_setV_same, BitVec.toNat_add]

/-- Settles O18: three loads of Vx, each with the bits of one bitwise operation. -/
theorem logicWorksBitByBitAndKeepsVf : Obligations.LogicWorksBitByBitAndKeepsVf := fun x y s =>
  ⟨decodeWord_encode (.or x y) rfl, decodeWord_encode (.and x y) rfl, decodeWord_encode (.xor x y) rfl,
    answers_setV_bits s x _ fun _ => BitVec.getLsbD_or, answers_setV_bits s x _ fun _ => BitVec.getLsbD_and,
    answers_setV_bits s x _ fun _ => BitVec.getLsbD_xor⟩

theorem State.getV_loadDraw_same (s : State) (r : Byte) (x : RegIdx) (kk : Byte) :
    (s.loadDraw r x kk).getV x = r &&& kk := s.getV_setV_same x _

/-- Settles O23: the draw is masked with kk, and 0x00 and 0xFF are the zero and the one of the mask. -/
theorem randomTakesOneMaskedDraw : Obligations.RandomTakesOneMaskedDraw := by
  refine fun x kk s => ⟨decodeWord_encode (.rnd x kk) rfl, _, rfl, fun b => ?_, ?_, ?_, rfl,
    s.regsUnchanged_setV _ (by simp), s.unchanged_loadDraw _ x kk⟩
  · rw [State.getV_loadDraw_same, BitVec.getLsbD_and]
  · rintro rfl
    rw [State.getV_loadDraw_same]
    exact BitVec.and_zero
  · rintro rfl
    rw [State.getV_loadDraw_same]
    exact BitVec.and_allOnes

/-! ## VF_DEST_POLICY (41_alu.md R121) -/

/-- The state under another VF_DEST_POLICY. -/
def State.setVfDest (s : State) (p : VfDestPolicy) : State := { s with config := { s.config with vfDest := p } }

section
variable (s : State) (p : VfDestPolicy)

theorem State.writeBytes_setVfDest (a : Nat) (bs : List Byte) :
    (s.setVfDest p).writeBytes a bs = (s.writeBytes a bs).setVfDest p := by
  induction bs generalizing s a with
  | nil => rfl
  | cons b bs ih => exact ih (s.writeByte a b) (a + 1)

theorem State.loadRegs_setVfDest (a k : Nat) : (s.setVfDest p).loadRegs a k = (s.loadRegs a k).setVfDest p := by
  induction k with
  | zero => rfl
  | succ k ih =>
    simp only [State.loadRegs, ih]
    rfl

theorem State.skipIf_setVfDest (c : Bool) : (s.setVfDest p).skipIf c = (s.skipIf c).setVfDest p := by
  cases c <;> rfl

/-- Writes of two registers can be exchanged. -/
theorem State.setV_comm {x y : RegIdx} (h : x ≠ y) (b c : Byte) : (s.setV x b).setV y c = (s.setV y c).setV x b := by
  have hne : x.toNat ≠ y.toNat := mt RegIdx.eq_of_toNat h
  simp only [State.setV, Vector.set_comm _ _ hne]

/-- With x other than F both policies write the same. -/
theorem State.writeResultAndFlag_of_ne {x : RegIdx} (hx : x ≠ 0xF) (o : AluOut) :
    s.writeResultAndFlag x o = s.resultThenFlag x o := by
  unfold State.writeResultAndFlag
  cases s.config.vfDest with
  | flagLast => rfl
  | textual => exact s.setV_comm hx.symm _ _

theorem State.writeResultAndFlag_setVfDest {x : RegIdx} (hx : x ≠ 0xF) (o : AluOut) :
    (s.setVfDest p).writeResultAndFlag x o = (s.writeResultAndFlag x o).setVfDest p := by
  rw [State.writeResultAndFlag_of_ne _ hx, State.writeResultAndFlag_of_ne _ hx]
  rfl

end

/-- `r` is a next state, and `r'` is the same one under policy `p`. -/
def SameUnder (p : VfDestPolicy) (r r' : Result) : Prop := Answers (fun t => r' = .next (t.setVfDest p)) r

section
variable {p : VfDestPolicy}

theorem sameUnder_next {t t' : State} (h : t' = t.setVfDest p) : SameUnder p (.next t) (.next t') :=
  answers_next (congrArg _ h)

theorem sameUnder_ite {c : Prop} [Decidable c] {r₁ r₂ r₁' r₂' : Result} (h₁ : SameUnder p r₁ r₁')
    (h₂ : SameUnder p r₂ r₂') : SameUnder p (if c then r₁ else r₂) (if c then r₁' else r₂') := by
  split
  · exact h₁
  · exact h₂

variable (s : State)

theorem sameUnder_raise (f : FaultCode) (op : Word) : SameUnder p (raise f op s) (raise f op (s.setVfDest p)) :=
  sameUnder_next rfl

theorem execSys_sameUnder (nnn : BitVec 12) : SameUnder p (execSys nnn s) (execSys nnn (s.setVfDest p)) := by
  cases hpolicy : s.config.sysPolicy with
  | fault =>
    rw [execSys_of_fault hpolicy, execSys_of_fault (s := s.setVfDest p) hpolicy]
    exact sameUnder_next rfl
  | nop =>
    rw [execSys_of_nop hpolicy, execSys_of_nop (s := s.setVfDest p) hpolicy]
    exact sameUnder_next rfl

theorem execCall_sameUnder (nnn : BitVec 12) : SameUnder p (execCall nnn s) (execCall nnn (s.setVfDest p)) := by
  by_cases hroom : s.sp.val < 16
  · rw [execCall_of_room s nnn hroom, execCall_of_room (s.setVfDest p) nnn hroom]
    exact sameUnder_next rfl
  · rw [execCall_of_full s nnn hroom, execCall_of_full (s.setVfDest p) nnn hroom]
    exact sameUnder_next rfl

theorem skipOnKey_sameUnder (x : RegIdx) (op : Word) (pressed : Bool) :
    SameUnder p (skipOnKey x op pressed s) (skipOnKey x op pressed (s.setVfDest p)) := by
  have hx : (s.setVfDest p).getV x = s.getV x := rfl
  unfold skipOnKey
  rw [hx]
  cases keyOperand (s.getV x) with
  | some k => exact sameUnder_next (s.skipIf_setVfDest p _)
  | none => exact sameUnder_raise s ..

/-- Only the four that write a result and a flag in the order the policy gives read it, and they ignore it for x other
than F. -/
theorem exec_sameUnder {i : Instr}
    (hi : ∀ y, i ≠ .sub 0xF y ∧ i ≠ .shr 0xF y ∧ i ≠ .subn 0xF y ∧ i ≠ .shl 0xF y) :
    SameUnder p (exec i s) (exec i (s.setVfDest p)) := by
  cases i with
  | sub x y | shr x y | subn x y | shl x y =>
    have hx : x ≠ 0xF := by
      rintro rfl
      simpa using hi y
    exact sameUnder_next (s.writeResultAndFlag_setVfDest p hx _)
  | sys nnn => exact execSys_sameUnder s nnn
  | call nnn => exact execCall_sameUnder s nnn
  | ret => exact sameUnder_ite (sameUnder_raise s ..) (sameUnder_next rfl)
  | skp x =>
    rw [exec_skp, exec_skp]
    exact skipOnKey_sameUnder s ..
  | sknp x =>
    rw [exec_sknp, exec_sknp]
    exact skipOnKey_sameUnder s ..
  | seKk | sneKk | seXy | sneXy => exact sameUnder_next (s.skipIf_setVfDest p _)
  | ldXK => exact sameUnder_ite (sameUnder_next rfl) (sameUnder_next rfl)
  | drw => exact sameUnder_ite (sameUnder_next rfl) (sameUnder_raise s ..)
  | ldBX | ldMemX => exact sameUnder_ite (sameUnder_next (s.writeBytes_setVfDest p ..)) (sameUnder_raise s ..)
  | ldXMem => exact sameUnder_ite (sameUnder_next (s.loadRegs_setVfDest p ..)) (sameUnder_raise s ..)
  | cls | jp | jpV0 | ldKk | addKk | ldXy | or | and | xor | addXy | rnd | ldXDt | ldDtX | ldStX | ldI | addIX | ldFX =>
    exact sameUnder_next rfl

end

/-- Settles O22: the next state under policy `p` is the next state, put under policy `p`. -/
theorem policyMattersOnlyWhenVfIsTheDestination : Obligations.PolicyMattersOnlyWhenVfIsTheDestination :=
  fun _ s _ _ hi ht =>
  (exec_sameUnder s hi).of_next ht

end Sys2Proof.Machine
end

section
/-! The index register and the memory-block instructions (42_index_memory.md): the writes of I (R150 to R152), and the
stores and the load at I, each of which completes or takes OutOfBounds (R153 to R155; 20_memory.md R54). -/

namespace Sys2Proof.Machine

/-! ## The stores and the load at I -/

/-- Byte `k` of a block store at `a` lands at `a + k`. -/
theorem State.readByte_writeBytes_add (s : State) (a : Nat) {bs : List Byte} {k : Nat} (hk : k < bs.length) :
    (s.writeBytes a bs).readByte (a + k) = bs[k] := by
  rw [State.readByte_writeBytes, dif_pos (by omega)]
  simp

/-- A store of the decimal digits of `b` puts the hundreds, the tens and the ones one after another. -/
theorem State.readByte_writeBytes_bcdDigits (s : State) (a : Nat) (b : Byte) :
    ((s.writeBytes a (bcdDigits b)).readByte a).toNat = b.toNat / 100 ∧
    ((s.writeBytes a (bcdDigits b)).readByte (a + 1)).toNat = b.toNat / 10 % 10 ∧
    ((s.writeBytes a (bcdDigits b)).readByte (a + 2)).toNat = b.toNat % 10 := by
  have hb := b.isLt
  have hdigit (k : Nat) (hk : k < 3) :
      ((s.writeBytes a (bcdDigits b)).readByte (a + k)).toNat = ((bcdDigits b)[k]'hk).toNat :=
    congrArg _ (s.readByte_writeBytes_add a hk)
  exact ⟨(hdigit 0 (by decide)).trans (Nat.mod_eq_of_lt (by omega)),
    (hdigit 1 (by decide)).trans (Nat.mod_eq_of_lt (by omega)),
    (hdigit 2 (by decide)).trans (Nat.mod_eq_of_lt (by omega))⟩

/-- Settles O29: the three digits where the range fits, the hundreds at most 2; the fault where it does not. -/
theorem storeBcdOrFault : Obligations.StoreBcdOrFault := by
  refine fun x s => ⟨decodeWord_encode (.ldBX x) rfl, fun hfits => ?_, fun hout => ?_⟩
  · obtain ⟨hhundreds, htens, hones⟩ := s.readByte_writeBytes_bcdDigits s.i.toNat (s.getV x)
    refine ⟨_, execLdBX_of_ok s x hfits, hhundreds, htens, hones, ?_, s.memUnchangedOutside_writeBytes _ (bcdDigits _),
      s.unchanged_writeBytes _ _⟩
    have := (s.getV x).isLt
    omega
  · exact ⟨_, execLdBX_of_out s x (by omega), takesFault_latch ..⟩

/-- Settles O30: Vy at offset y where the range fits, the fault where it does not. -/
theorem storeRegistersOrFault : Obligations.StoreRegistersOrFault := by
  refine fun x s => ⟨decodeWord_encode (.ldMemX x) rfl, fun hfits => ?_, fun hout => ?_⟩
  · have hlen : (s.regBytes x).length = x.toNat + 1 := s.regBytes_length x
    exact ⟨_, execLdMemX_of_ok s x hfits, fun y hy => s.readByte_writeBytes_regBytes _ hy,
      hlen ▸ s.memUnchangedOutside_writeBytes _ _, s.unchanged_writeBytes _ _⟩
  · exact ⟨_, execLdMemX_of_out s x (by omega), takesFault_latch ..⟩

/-- Settles O31: Vy from offset y where the range fits, the fault where it does not. -/
theorem loadRegistersOrFault : Obligations.LoadRegistersOrFault := by
  refine fun x s => ⟨decodeWord_encode (.ldXMem x) rfl, fun hfits => ?_, fun hout => ?_⟩
  · have hload (y : RegIdx) := s.getV_loadRegs s.i.toNat (blockLength_le x) y
    exact ⟨_, execLdXMem_of_ok s x hfits, fun y hy => (hload y).trans (if_pos (Nat.lt_succ_of_le hy)),
      fun y hy => (hload y).trans (if_neg (Nat.not_lt.2 hy)), s.unchanged_loadRegs _ _⟩
  · exact ⟨_, execLdXMem_of_out s x (by omega), takesFault_latch ..⟩

/-! ## The index register -/

/-- Settles O27: the immediate is extended with zeros, so I is below 2^12. -/
theorem loadIndexImmediate : Obligations.LoadIndexImmediate := fun nnn s =>
  have hi : (zextNnn nnn).toNat = nnn.toNat := zextNnn_toNat nnn
  ⟨decodeWord_encode (.ldI nnn) rfl, _, rfl, hi, hi.trans_le (Nat.le_of_lt_succ nnn.isLt), s.unchanged_setI _⟩

/-- Settles O28: the sum wraps at 16 bits, and a glyph address does not. -/
theorem addToIndexAndPointAtGlyph : Obligations.AddToIndexAndPointAtGlyph := by
  refine fun x s => ⟨decodeWord_encode (.addIX x) rfl, decodeWord_encode (.ldFX x) rfl,
    ⟨_, rfl, ?_, s.unchanged_setI _⟩, ⟨_, rfl, glyphAddress_toNat s.config (s.getV x), s.unchanged_setI _⟩⟩
  rw [State.setI_i, BitVec.toNat_add, zextByte_toNat]

end Sys2Proof.Machine
end

section
/-! The display (43_display.md): CLS (R170), and the draw with its collision (R171, R173), done once and done twice
(R174). -/

namespace Sys2Proof.Machine

/-- Settles O34: a clear framebuffer is written, and nothing else. -/
theorem clearTurnsEveryPixelOff : Obligations.ClearTurnsEveryPixelOff :=
  ⟨decodeWord_encode .cls rfl, fun s => ⟨_, rfl, Screen.pixel_clear, s.unchanged_setFb _⟩⟩

/-! ## The state after a draw -/

/-- The state in which a Dxyn whose sprite bytes lie in memory ends. -/
def State.afterDraw (s : State) (x y : RegIdx) (n : BitVec 4) : State :=
  (s.setFb (s.drawSprite x y n.toNat).fb).setV 0xF (flagByte (s.drawSprite x y n.toNat).collide)

section
variable {s : State} {x y : RegIdx} {n : BitVec 4}

theorem exec_drw_of_fits (hfits : s.i.toNat + n.toNat ≤ 4096) :
    exec (.drw x y n) s = .next (s.afterDraw x y n) := execDrw_of_ok s x y n hfits

theorem State.unchanged_afterDraw : Unchanged [.v, .fb] s (s.afterDraw x y n) :=
  ((s.unchanged_setFb _).trans (State.unchanged_setV _ _ _)).mono (by simp)

theorem State.regsUnchanged_afterDraw : RegsUnchanged [0xF] s (s.afterDraw x y n) :=
  State.regsUnchanged_setV (s.setFb _) _ (by simp)

theorem State.pixel_afterDraw (row col : Nat) :
    Screen.pixel (s.afterDraw x y n).fb row col = (Screen.pixel s.fb row col ^^ s.spriteOver x y n row col) :=
  s.pixel_drawSprite x y n row col

theorem State.getV_afterDraw_vf : (s.afterDraw x y n).getV 0xF = flagByte (s.drawSprite x y n.toNat).collide :=
  State.getV_setV_same ..

/-- The collision of 43_display.md R173; a pixel under the sprite is on the screen, so no range is asked for. -/
theorem State.vf_afterDraw_of_hit
    (hhit : ∃ row col, s.spriteOver x y n row col = true ∧ Screen.pixel s.fb row col = true) :
    (s.afterDraw x y n).getV 0xF = 0x01 := by
  obtain ⟨row, col, hover, hon⟩ := hhit
  obtain ⟨hrow, hcol⟩ := State.spriteOver_range hover
  rw [State.getV_afterDraw_vf, (s.collide_drawSprite x y n).2 ⟨row, col, hrow, hcol, hover, hon⟩]
  rfl

theorem State.vf_afterDraw_of_miss
    (hmiss : ∀ row col, s.spriteOver x y n row col = true → Screen.pixel s.fb row col = false) :
    (s.afterDraw x y n).getV 0xF = 0x00 := by
  have hcollide : ¬(s.drawSprite x y n.toNat).collide = true := by
    rw [State.collide_drawSprite]
    rintro ⟨row, col, -, -, hover, hon⟩
    exact Bool.false_ne_true ((hmiss row col hover).symm.trans hon)
  rw [State.getV_afterDraw_vf, Bool.eq_false_of_not_eq_true hcollide]
  rfl

end

/-- Settles O35: a sprite that fits is drawn as the laws of the draw unit say; the fault where it does not. -/
theorem drawTogglesTheSpriteAndReportsCollision : Obligations.DrawTogglesTheSpriteAndReportsCollision := by
  refine fun x y n s => ⟨decodeWord_encode (.drw x y n) rfl, fun hfits => ?_, fun hout => ?_⟩
  · refine ⟨_, exec_drw_of_fits hfits, State.pixel_afterDraw, ?_, fun hmiss => ?_, State.regsUnchanged_afterDraw,
      State.unchanged_afterDraw⟩
    · rintro ⟨row, col, -, -, hhit⟩
      exact State.vf_afterDraw_of_hit ⟨row, col, hhit⟩
    · refine State.vf_afterDraw_of_miss fun row col hover => ?_
      obtain ⟨hrow, hcol⟩ := State.spriteOver_range hover
      exact hmiss row col hrow hcol hover
  · exact ⟨_, execDrw_of_out s x y n (by omega), takesFault_latch ..⟩

/-! ## The same draw again (43_display.md R174) -/

section
variable {s t : State} {x y x' y' : RegIdx} {n : BitVec 4}

/-- Which pixels lie under a sprite depends on the coordinates, I and memory alone, so a draw does not move it. -/
theorem Unchanged.spriteOver_eq (h : Unchanged [.v, .fb] s t) (hx : t.getV x' = s.getV x) (hy : t.getV y' = s.getV y) :
    t.spriteOver x' y' n = s.spriteOver x y n := by
  have hi : t.i = s.i := h .i (by simp)
  have hmem : ∀ a, t.readByte a = s.readByte a := h .mem (by simp)
  funext row col
  simp only [State.spriteOver, hi, hmem, hx, hy]

theorem State.spriteOver_eq_false_of_blank (hblank : ∀ r, r < n.toNat → s.readByte (s.i.toNat + r) = 0x00)
    (row col : Nat) : s.spriteOver x y n row col = false := by
  refine List.any_eq_false.2 fun r hr => ?_
  have hbyte := hblank r (List.mem_range.1 hr)
  simp [hbyte, rowCovers]

theorem State.pixel_afterDraw_of_over {row col : Nat} (hover : s.spriteOver x y n row col = true) :
    Screen.pixel (s.afterDraw x y n).fb row col = !Screen.pixel s.fb row col := by
  rw [State.pixel_afterDraw, hover, Bool.xor_true]

/-! Two draws, the second over the pixels of the first. -/

variable (hover : (s.afterDraw x y n).spriteOver x' y' n = s.spriteOver x y n)
include hover

theorem State.fb_afterDraw_twice : ((s.afterDraw x y n).afterDraw x' y' n).fb = s.fb :=
  Screen.ext_pixel fun row col _ _ => by
    rw [State.pixel_afterDraw, State.pixel_afterDraw, hover, Bool.xor_assoc, Bool.xor_self, Bool.xor_false]

/-- The first draw turned the pixel on, so the second one meets it. -/
theorem State.vf_afterDraw_twice_of_off
    (hoff : ∃ row col, s.spriteOver x y n row col = true ∧ Screen.pixel s.fb row col = false) :
    ((s.afterDraw x y n).afterDraw x' y' n).getV 0xF = 0x01 := by
  obtain ⟨row, col, hcover, hpixel⟩ := hoff
  refine State.vf_afterDraw_of_hit ⟨row, col, hover ▸ hcover, ?_⟩
  rw [State.pixel_afterDraw_of_over hcover, hpixel, Bool.not_false]

/-- The first draw turned all of them off, so the second one meets none. -/
theorem State.vf_afterDraw_twice_of_on
    (hon : ∀ row col, s.spriteOver x y n row col = true → Screen.pixel s.fb row col = true) :
    ((s.afterDraw x y n).afterDraw x' y' n).getV 0xF = 0x00 := by
  refine State.vf_afterDraw_of_miss fun row col hcover => ?_
  rw [hover] at hcover
  rw [State.pixel_afterDraw_of_over hcover, hon row col hcover, Bool.not_true]

end

/-- Settles O36: the second draw covers the pixels of the first. From a screen that is off a byte that is not zero lies
over a pixel that is off, and a blank sprite lies over none. -/
theorem drawingTwiceRestoresTheFramebuffer : Obligations.DrawingTwiceRestoresTheFramebuffer := by
  intro x y x' y' n s t hfits hdraw hx hy
  obtain rfl : s.afterDraw x y n = t := by simpa [exec_drw_of_fits hfits] using hdraw
  have hover : (s.afterDraw x y n).spriteOver x' y' n = s.spriteOver x y n :=
    State.unchanged_afterDraw.spriteOver_eq hx hy
  have hagain := State.vf_afterDraw_twice_of_off hover
  refine ⟨_, exec_drw_of_fits hfits, State.fb_afterDraw_twice hover, hagain, State.vf_afterDraw_twice_of_on hover,
    ?_, ?_⟩
  · rintro hoff ⟨r, hr, hbyte⟩
    obtain ⟨row, col, hcover⟩ := s.exists_spriteOver x y hr hbyte
    exact hagain ⟨row, col, hcover, hoff row col⟩
  · intro hblank
    refine State.vf_afterDraw_twice_of_on hover fun row col hcover => ?_
    simp [State.spriteOver_eq_false_of_blank hblank] at hcover

end Sys2Proof.Machine
end

section
/-! The keypad and the timers (44_keypad_timers.md): the skips on a key (R190, R191), the wait for a key (R193), the moves
between Vx and the timers (R192, R194, R195) and the host's operations on them (R196, R197). -/

namespace Sys2Proof.Machine

/-! ## The skips on a key -/

section
variable {s : State} {x : RegIdx}

theorem exec_skp_of_le (h : (s.getV x).toNat ≤ 0xF) :
    exec (.skp x) s = .next (s.skipIf (s.key.getLsbD (s.getV x).toNat)) :=
  execSkp_of_key s x (BitVec.ofNatLT (s.getV x).toNat (Nat.lt_succ_of_le h)) rfl

theorem exec_sknp_of_le (h : (s.getV x).toNat ≤ 0xF) :
    exec (.sknp x) s = .next (s.skipIf (!s.key.getLsbD (s.getV x).toNat)) :=
  execSknp_of_key s x (BitVec.ofNatLT (s.getV x).toNat (Nat.lt_succ_of_le h)) rfl

end

/-- Settles O39: a register of at most 0xF names a key, and both skip on it, on opposite values; one above 0xF faults. -/
theorem skipsOnAKeyOrFault : Obligations.SkipsOnAKeyOrFault := by
  refine fun x s => ⟨decodeWord_encode (.skp x) rfl, decodeWord_encode (.sknp x) rfl, fun hkey => ?_, fun hout => ?_⟩
  · rw [exec_skp_of_le hkey, exec_sknp_of_le hkey]
    exact ⟨answers_skipIf s id id, answers_skipIf s (congrArg not) (congrArg not)⟩
  · exact ⟨⟨_, execSkp_of_out s x hout, takesFault_latch ..⟩, ⟨_, execSknp_of_out s x hout, takesFault_latch ..⟩⟩

/-! ## The wait for a key -/

theorem selectKey_of_lowest {c : Config} (h : c.keySelect = .lowest) (key : Word) : selectKey c key = lowestKey key := by
  simp [selectKey, h]

/-- A key number fits a register. -/
theorem State.toNat_getV_setV_key (s : State) (x k : RegIdx) : ((s.setV x (k.zeroExtend 8)).getV x).toNat = k.toNat := by
  rw [State.getV_setV_same]
  exact BitVec.toNat_setWidth_of_le (by omega)

/-- Settles O41: no pressed key rewinds PC; else Vx takes the selected key, which is pressed and, under the default, the
lowest. -/
theorem waitForKeyTakesAPressedKey : Obligations.WaitForKeyTakesAPressedKey := by
  refine fun x s => ⟨decodeWord_encode (.ldXK x) rfl, fun hnone => ?_, fun hsome => ?_⟩
  · exact ⟨_, execLdXK_of_none s x hnone, rfl, s.unchanged_rewind⟩
  · refine ⟨_, execLdXK_of_key s x hsome, ?_⟩
    rw [State.toNat_getV_setV_key]
    refine ⟨by omega, keyDown_selectKey s.config hsome, fun hlowest => ?_, s.frame_setV x _⟩
    rw [selectKey_of_lowest hlowest]
    exact (lowestKey_spec hsome).2

theorem State.rewind_advance (s : State) : s.advance.rewind = s := by
  simp [State.advance, State.rewind]

/-- Settles O42: the wait takes back the PC advance of its own fetch. -/
theorem waitingStepChangesNothing : Obligations.WaitingStepChangesNothing := fun x s hword hnone =>
  calc step s
    _ = exec (.ldXK x) s.advance := hword.step_eq_exec (decodeWord_encode (.ldXK x) rfl)
    _ = .next s.advance.rewind := execLdXK_of_none s.advance x hnone
    _ = .next s := congrArg _ s.rewind_advance

/-! ## The timers -/

/-- A tick takes one from a timer and stops at 0, as truncated subtraction does (44_keypad_timers.md R196). -/
theorem toNat_tickTimer (t : Byte) : (tickTimer t).toNat = t.toNat - 1 := by
  unfold tickTimer
  split
  · next h => simp [h]
  · bv_omega

/-- A sound timer of 1 is at its last tick (44_keypad_timers.md R195). -/
theorem State.soundOn_tickTimers_of_one (s : State) (h : s.st = 0x01) : s.tickTimers.soundOn = false := by
  simp [State.soundOn, tickTimer, h]

theorem State.unchanged_tickTimers (s : State) : Unchanged [.dt, .st] s s.tickTimers := by
  intro p hp; cases p <;> simp_all [State.Same]

/-- Settles O40: each move is one update, and `sound_on` reads the timer that Fx18 has set. -/
theorem timersAreReadAndSet : Obligations.TimersAreReadAndSet := fun x s =>
  ⟨decodeWord_encode (.ldXDt x) rfl, decodeWord_encode (.ldDtX x) rfl, decodeWord_encode (.ldStX x) rfl,
    ⟨_, rfl, s.getV_setV_same x _, s.frame_setV x _⟩, ⟨_, rfl, rfl, s.unchanged_setDt _⟩,
    ⟨_, rfl, rfl, (s.setSt _).soundOn_iff, (s.setSt _).soundOn_tickTimers_of_one, s.unchanged_setSt _⟩⟩

/-- Settles O43: a tick of each timer, and a write of KEY, from any state. -/
theorem tickAndKeyInChangeOnlyTheirOwn : Obligations.TickAndKeyInChangeOnlyTheirOwn := fun s keys =>
  ⟨toNat_tickTimer s.dt, toNat_tickTimer s.st, s.unchanged_tickTimers, rfl, s.unchanged_keyIn keys⟩

end Sys2Proof.Machine
end

section
/-! Faults (60_exceptions.md R210 to R216): the one fault each instruction can raise and its cause, what a step that
faults writes, and how long a fault stays. -/

namespace Sys2Proof.Machine

/-! ## The fault of an instruction (60_exceptions.md R211) -/

/-- The fault that executing `i` in `s` is due to raise, `none` when there is no cause for one. -/
def execFault (i : Instr) (s : State) : FaultCode :=
  match i with
  | .sys _ => if s.config.sysPolicy = .fault then .unknownOpcode else .none
  | .call _ => if s.sp.val = 16 then .stackOverflow else .none
  | .ret => if s.sp.val = 0 then .stackUnderflow else .none
  | .drw _ _ n => if 4096 < s.i.toNat + n.toNat then .outOfBounds else .none
  | .skp x | .sknp x => if 0xF < (s.getV x).toNat then .outOfBounds else .none
  | .ldBX _ => if 4096 < s.i.toNat + 3 then .outOfBounds else .none
  | .ldMemX x | .ldXMem x => if 4096 < s.i.toNat + x.toNat + 1 then .outOfBounds else .none
  | _ => .none

/-- The answer of an instruction with word `op` when the fault `f` is due: it is raised; with none due, STATUS stays. -/
def FaultsWith (f : FaultCode) (op : Word) (s : State) (r : Result) : Prop :=
  f = .none ∧ Answers (fun t => t.status = s.status) r ∨ f ≠ .none ∧ r = raise f op s

section
variable {s : State} {op : Word}

/-- An instruction that raises `f` under the condition `c` and otherwise leaves STATUS alone. -/
theorem faultsWith_ite {c : Prop} [Decidable c] {f : FaultCode} {r : Result} (hraise : c → r = raise f op s)
    (hkeeps : ¬c → Answers (fun t => t.status = s.status) r) (hf : f ≠ .none := by simp) :
    FaultsWith (if c then f else .none) op s r := by
  split
  · exact .inr ⟨hf, hraise ‹_›⟩
  · exact .inl ⟨rfl, hkeeps ‹_›⟩

theorem FaultsWith.code_eq {f : FaultCode} {t : State} (h : FaultsWith f op s (.next t))
    (hclear : s.status.code = .none) : t.status.code = f := by
  obtain ⟨rfl, hkeeps⟩ | ⟨-, hraise⟩ := h
  · rw [hkeeps.of_next rfl, hclear]
  · obtain rfl : t = s.latch f (s.pc - 2) op := by simpa [raise] using hraise
    rfl

end

/-- STATUS stays under every instruction to which `partWrites` does not give it. -/
theorem exec_keepsStatus {i : Instr} (s : State) (h : .status ∉ partWrites i := by simp [partWrites]) :
    Answers (fun t => t.status = s.status) (exec i s) :=
  (exec_unchanged i s).imp fun _ ⟨ht, hsame⟩ => ⟨ht, hsame .status h⟩

/-- The nine instructions with a cause go one by one; every other one leaves STATUS alone. -/
theorem exec_faultsWith (i : Instr) (s : State) : FaultsWith (execFault i s) (encode i) s (exec i s) := by
  cases i with
  | sys nnn =>
    refine faultsWith_ite (fun hfault => execSys_of_fault hfault nnn) fun hne => ⟨_, execSys_of_nop ?_ nnn, rfl⟩
    cases hpolicy : s.config.sysPolicy with
    | fault => exact absurd hpolicy hne
    | nop => rfl
  | call nnn =>
    exact faultsWith_ite (fun h => execCall_of_full s nnn (by omega)) fun h =>
      ⟨_, execCall_of_room s nnn (by omega), rfl⟩
  | ret =>
    exact faultsWith_ite (execRet_of_empty s) fun h => ⟨_, execRet_of_nonempty s (Nat.pos_of_ne_zero h), rfl⟩
  | drw x y n =>
    exact faultsWith_ite (fun h => execDrw_of_out s x y n (by omega)) fun h =>
      ⟨_, execDrw_of_ok s x y n (by omega), rfl⟩
  | skp x => exact faultsWith_ite (execSkp_of_out s x) fun h => ⟨_, exec_skp_of_le (by omega), by simp⟩
  | sknp x => exact faultsWith_ite (execSknp_of_out s x) fun h => ⟨_, exec_sknp_of_le (by omega), by simp⟩
  | ldBX x =>
    exact faultsWith_ite (fun h => execLdBX_of_out s x (by omega)) fun h =>
      ⟨_, execLdBX_of_ok s x (by omega), by simp⟩
  | ldMemX x =>
    exact faultsWith_ite (fun h => execLdMemX_of_out s x (by omega)) fun h =>
      ⟨_, execLdMemX_of_ok s x (by omega), by simp⟩
  | ldXMem x =>
    exact faultsWith_ite (fun h => execLdXMem_of_out s x (by omega)) fun h =>
      ⟨_, execLdXMem_of_ok s x (by omega), by simp⟩
  | cls | jp | jpV0 | seKk | sneKk | seXy | sneXy | ldKk | addKk | ldXy | or | and | xor | addXy | sub | shr | subn
  | shl | rnd | ldXDt | ldXK | ldDtX | ldStX | ldI | addIX | ldFX => exact .inl ⟨rfl, exec_keepsStatus s⟩

/-! ## The causes of each fault -/

theorem FaultCode.ite_none_eq_iff {c : Prop} [Decidable c] {f g : FaultCode} (hg : g ≠ .none) :
    (if c then f else .none) = g ↔ c ∧ f = g := by
  simp [ite_eq_iff, hg.symm]

section
variable {i : Instr} {s : State}

theorem execFault_eq_unknownOpcode :
    execFault i s = .unknownOpcode ↔ s.config.sysPolicy = .fault ∧ ∃ nnn, i = .sys nnn := by
  cases i <;> simp [execFault, FaultCode.ite_none_eq_iff]

theorem execFault_eq_stackOverflow : execFault i s = .stackOverflow ↔ s.sp.val = 16 ∧ ∃ nnn, i = .call nnn := by
  cases i <;> simp [execFault, FaultCode.ite_none_eq_iff]

theorem execFault_eq_stackUnderflow : execFault i s = .stackUnderflow ↔ s.sp.val = 0 ∧ i = .ret := by
  cases i <;> simp [execFault, FaultCode.ite_none_eq_iff]

theorem execFault_eq_outOfBounds : execFault i s = .outOfBounds ↔
    (∃ x y n, i = .drw x y n ∧ 4096 < s.i.toNat + n.toNat) ∨
    (∃ x, (i = .skp x ∨ i = .sknp x) ∧ 0xF < (s.getV x).toNat) ∨
    (∃ x, i = .ldBX x ∧ 4096 < s.i.toNat + 3) ∨
    (∃ x, (i = .ldMemX x ∨ i = .ldXMem x) ∧ 4096 < s.i.toNat + x.toNat + 1) := by
  cases i <;> simp [execFault, FaultCode.ite_none_eq_iff]
  case ldBX => omega

theorem execFault_ne_loadError : execFault i s ≠ .romTooLarge ∧ execFault i s ≠ .truncatedSource := by
  cases i <;> simp [execFault, FaultCode.ite_none_eq_iff]

end

/-- Settles O48: from a clear latch the next state's code is `execFault`, and its causes are read off code by code. -/
theorem faultsHaveExactlyTheirCauses : Obligations.FaultsHaveExactlyTheirCauses := by
  intro i s t h hclear
  have hcode : t.status.code = execFault i s := (h ▸ exec_faultsWith i s).code_eq hclear
  rw [hcode]
  exact ⟨execFault_eq_unknownOpcode, execFault_eq_stackOverflow, execFault_eq_stackUnderflow, execFault_eq_outOfBounds,
    execFault_ne_loadError⟩

/-! ## Steps that fault (60_exceptions.md R214) -/

/-- Settles O8: `step_keepsConfig` finds a next state in each of the four ways a step can go. -/
theorem everyStepAnswersANextState : Obligations.EveryStepAnswersANextState := fun s =>
  (step_keepsConfig s).imp fun _ ⟨hnext, _⟩ => hnext

theorem State.unchanged_advance (s : State) : Unchanged [.pc] s s.advance := s.unchanged_skipIf true

/-- An instruction that takes a fault latches its own address and, since it was decoded from `w`, the word `w`. -/
theorem exec_advance_of_fault {i : Instr} {w : Word} {s t : State} (hclear : s.status.code = .none)
    (hd : decodeWord w = .ok i) (h : exec i s.advance = .next t) (hfault : t.status.code ≠ .none) :
    t = s.advance.latch t.status.code s.pc w := by
  obtain ⟨rfl, -⟩ := encodeOfDecodeIsTheWord w i hd
  obtain ⟨-, hkeeps⟩ | ⟨-, hraise⟩ := exec_faultsWith i s.advance
  · exact absurd ((congrArg Status.code (hkeeps.of_next h)).trans hclear) hfault
  · rw [h, raise_advance] at hraise
    obtain rfl := Host.Outcome.next.inj hraise
    rfl

/-- The two kinds of step that latch a fault: the fetch fails, or the fetched word is illegal or its instruction
faults. -/
theorem step_of_fault {s t : State} (hclear : s.status.code = .none) (h : step s = .next t)
    (hfault : t.status.code ≠ .none) :
    0x0FFE < s.pc.toNat ∧ t = s.latch .outOfBounds s.pc 0x0000 ∨
      s.pc.toNat ≤ 0x0FFE ∧ t = s.advance.latch t.status.code s.pc s.fetchWord := by
  cases hf : s.canFetch with
  | false =>
    rw [step_of_fetchFault hclear hf] at h
    exact .inl ⟨canFetch_eq_false_iff.1 hf, (Host.Outcome.next.inj h).symm⟩
  | true =>
    refine .inr ⟨canFetch_iff.1 hf, ?_⟩
    cases hd : decodeWord s.fetchWord with
    | ok i => exact exec_advance_of_fault hclear hd (step_of_decoded hclear hf hd ▸ h) hfault
    | error r =>
      rw [step_of_illegal hclear hf hd, raise_advance] at h
      obtain rfl := Host.Outcome.next.inj h
      rfl

/-- Settles O49: a fetch fault is one latch, and every other fault one PC advance and one latch. -/
theorem aFaultingStepWritesOnlyStatusAndPc : Obligations.AFaultingStepWritesOnlyStatusAndPc := by
  intro s t hclear h hfault
  obtain ⟨hpc, ht⟩ | ⟨hpc, ht⟩ := step_of_fault hclear h hfault
  · rw [ht]
    exact ⟨rfl, (s.unchanged_latch _ _ _).mono (by simp), fun _ => ⟨rfl, rfl, rfl⟩,
      fun hle => absurd hle (Nat.not_le.2 hpc)⟩
  · rw [ht]
    exact ⟨rfl, (s.unchanged_advance.trans (State.unchanged_latch _ _ _ _)).mono (by simp),
      fun hgt => absurd hgt (Nat.not_lt.2 hpc), fun _ => ⟨rfl, rfl⟩⟩

/-! ## A latched fault (60_exceptions.md R216) -/

theorem State.afterStep_of_latched {s : State} (h : s.status.code ≠ .none) : s.afterStep = s :=
  afterStep_of_next (step_of_latched h)

@[simp] theorem State.loadRom_status (s : State) (rom : List Byte) : (s.loadRom rom).2.status = s.status := by
  unfold State.loadRom
  split
  · exact s.writeBytes_status ..
  · rfl

theorem transition_status_of_latched {e : Event} {s : State} (h : s.status.code ≠ .none) (he : e ≠ .reset) :
    (transition e s).status = s.status := by
  cases e with
  | step => exact congrArg _ (State.afterStep_of_latched h)
  | load rom => exact s.loadRom_status rom
  | tick | keys => rfl
  | reset => exact absurd rfl he

/-- Settles O50: a step stays where it is, and the other transitions write no STATUS, except for reset, which clears
it. -/
theorem aLatchedFaultStaysUntilReset : Obligations.ALatchedFaultStaysUntilReset := by
  intro s h
  have hstep : transition .step s = s := State.afterStep_of_latched h
  refine ⟨fun e he => transition_status_of_latched h he, hstep, ?_, rfl⟩
  rw [hstep]
  exact State.stepResult_of_fault h

end Sys2Proof.Machine
end

section
/-! The end of a run, the loading of a ROM and the host's reset (70_reset_and_hazards.md R240 to R245). -/

namespace Sys2Proof.Machine

/-! ## A run that has ended (70_reset_and_hazards.md R245) -/

/-- An address in MEM is the zero extension of its own nnn field. -/
theorem zextNnn_fieldNnn {a : Word} (h : a.toNat ≤ 0x0FFF) : zextNnn (fieldNnn a) = a := by
  apply BitVec.eq_of_toNat_eq
  rw [zextNnn_toNat, fieldNnn, BitVec.extractLsb'_toNat, Nat.shiftRight_zero]
  exact Nat.mod_eq_of_lt (by omega)

theorem encode_jp (nnn : BitVec 12) : encode (.jp nnn) = 0x1000 ||| zextNnn nnn := by
  calc 0x1#4 ++ nnn
    _ = (0x1#4 ||| 0x0#4) ++ (0x000#12 ||| nnn) := by rw [BitVec.or_zero, BitVec.zero_or]
    _ = (0x1#4 ++ 0x000#12) ||| (0x0#4 ++ nnn) := BitVec.or_append.symm
    _ = 0x1000 ||| zextNnn nnn := congrArg (0x1000 ||| ·) (BitVec.setWidth_eq_append (by decide)).symm

theorem decodeWord_jp_to {a : Word} (h : a.toNat ≤ 0x0FFF) :
    decodeWord (0x1000 ||| a) = .ok (.jp (fieldNnn a)) := by
  have hword : encode (.jp (fieldNnn a)) = 0x1000 ||| a := by rw [encode_jp, zextNnn_fieldNnn h]
  exact hword ▸ decodeWord_encode _ rfl

theorem State.selfLoop_iff {s : State} : s.selfLoop = true ↔
    s.status.code = .none ∧ s.pc.toNat ≤ 0x0FFE ∧ s.fetchWord = 0x1000 ||| s.pc := by
  simp [State.selfLoop, and_assoc]

/-- The jump takes back the PC advance. -/
theorem step_of_selfLoop {s : State} (h : s.selfLoop = true) : step s = .next s := by
  obtain ⟨hclear, hpc, hword⟩ := State.selfLoop_iff.1 h
  have hmem : s.pc.toNat ≤ 0x0FFF := by omega
  have hd : decodeWord s.fetchWord = .ok (.jp (fieldNnn s.pc)) := hword ▸ decodeWord_jp_to hmem
  calc step s
    _ = .next (s.advance.jump (zextNnn (fieldNnn s.pc))) := step_of_decoded hclear (canFetch_iff.2 hpc) hd
    _ = .next (s.advance.jump s.pc) := by rw [zextNnn_fieldNnn hmem]
    _ = .next s := rfl

/-- Settles O51, by the two ways a run can have ended: a latched fault and a self-loop. -/
theorem anEndedRunStaysEnded : Obligations.AnEndedRunStaysEnded := fun _ h =>
  (Bool.or_eq_true_iff.1 h).elim (fun hfault => step_of_latched (of_decide_eq_true hfault)) step_of_selfLoop

/-! ## Loading (70_reset_and_hazards.md R242, R243) -/

section
variable (s : State) {rom : List Byte}

theorem State.loadRom_of_fits (h : rom.length ≤ 3584) : s.loadRom rom = (.ok, s.writeBytes programBase rom) :=
  if_pos (by simp only [programBase, memSize]; omega)

theorem State.loadRom_of_tooLarge (h : 3584 < rom.length) : s.loadRom rom = (.fault .romTooLarge, s) :=
  if_neg (by simp only [programBase, memSize]; omega)

end

/-- Settles O53: a ROM that fits is one block store at 0x200. -/
theorem loadRomIsAllOrNothing : Obligations.LoadRomIsAllOrNothing := fun s rom =>
  ⟨fun hfits => by
    rw [s.loadRom_of_fits hfits]
    exact ⟨rfl, fun _ hk => s.readByte_writeBytes_add _ hk, s.memUnchangedOutside_writeBytes _ rom,
      s.unchanged_writeBytes _ rom⟩,
    s.loadRom_of_tooLarge⟩

/-- Settles O54: the two branches of the loader. -/
theorem aTruncatedSourceLoadsNothing : Obligations.ATruncatedSourceLoadsNothing := fun _ _ _ =>
  ⟨fun hshort => if_neg (Nat.not_le.2 hshort), fun henough => if_pos henough⟩

/-! ## The host's reset (70_reset_and_hazards.md R240, R241) -/

/-- The host's reset lists no byte, so memory reads as the reset contents under the machine's own parameters. -/
theorem State.readByte_hostReset (s : State) (a : Nat) : s.hostReset.readByte a = resetByte s.config a :=
  Memory.read_nil ..

/-- Settles O2: memory is the font table of the machine's own parameters, `draws` and `config` are its own, and every
other element is that of the reset state. -/
theorem hostResetFromAnyStateGivesTheResetTable : Obligations.HostResetFromAnyStateGivesTheResetTable := by
  obtain ⟨-, hv, hi, hpc, hsp, hstack, hdt, hst, -, -, hstatus⟩ := resetStateIsTheResetTable
  exact fun s => ⟨s.readByte_hostReset, hv, hi, hpc, hsp, hstack, hdt, hst, rfl, Screen.pixel_clear, hstatus, rfl, rfl⟩

end Sys2Proof.Machine
end
